-- ==== Sys2Proof/Word.lean ====
section
/-! DEFINITION. The word types of the WZ-584: a byte at a port or in the store, and the two and four byte numbers of the
Formats chapter (R192). -/

namespace Sys2Proof

/-- One byte: a symbol in any queue, in the store and at a port (R4, R191). -/
abbrev Byte := BitVec 8

/-- A two-byte number of a request or an answer (R192). -/
abbrev Half := BitVec 16

/-- A four-byte number: a seconds value (R192, R105). -/
abbrev Word := BitVec 32

end Sys2Proof
end

