-- ==== Sys2Proof/Syntax.lean ====
section
/-! DEFINITION. The commands and events of the WZ-584: one constructor for each row of spec/opcode_table.json.
A port command carries the port it was taken at and its argument bytes as the Formats chapter lays them out (R190, R192).
An event of the part carries what the environment alone knows. -/

namespace Sys2Proof

/-- The two command ports (chapter 11). -/
inductive Port where
  /-- The station port. -/
  | s
  /-- The exchange port. -/
  | x
deriving DecidableEq, Repr

/-- The two transfer channels (chapter 6). -/
inductive Chan where
  | ch0
  | ch1
deriving DecidableEq, Repr

/-- A command or an event of the part. -/
inductive Instr where
  /-- COLD_RESET (R106): power-on, or RESET held low without the backup supply. -/
  | coldReset
  /-- WARM_RESET (R107): a RESET pulse while the backup supply is present. -/
  | warmReset
  /-- MALFORMED_REQUEST (R182): the bytes clocked in at a port between the fall of select and its release. -/
  | malformedRequest (port : Port) (bytes : List Byte)
  /-- NOP (R183). -/
  | nop (port : Port)
  /-- STATUS (R188). -/
  | status (port : Port)
  /-- READ_EVENTS (R187). -/
  | readEvents (port : Port) (count : Byte)
  /-- SET_EVENT_MASK (R187, R194): bit n admits kind n; byte n / 8 of the request is bits 8 (n / 8) and up. -/
  | setEventMask (port : Port) (mask : BitVec 48)
  /-- RESTART (R185). -/
  | restart (port : Port)
  /-- SET_CLOCK (R105). -/
  | setClock (port : Port) (seconds : Word)
  /-- CONFIGURE_LINE (R21): the presence byte and the seven settings; spaceMs is what the break timer reads, in whole
  milliseconds of the space period in progress, when the command is taken (R21, R26). -/
  | configureLine (port : Port) (presence rate stop : Byte) (breakTime : Half)
      (threshold txUsos rxUsos release : Byte) (spaceMs : Nat)
  /-- RECEIVE_ON (R28). -/
  | receiveOn (port : Port)
  /-- RECEIVE_OFF (R28). -/
  | receiveOff (port : Port)
  /-- TRANSMIT_ON (R36). -/
  | transmitOn (port : Port)
  /-- TRANSMIT_OFF (R36). -/
  | transmitOff (port : Port)
  /-- READ_LINE_QUALITY (R33). -/
  | readLineQuality (port : Port)
  /-- ROUTE (R64). -/
  | route (port : Port) (row function mask : Byte)
  /-- SET_TRIGGER (R75): the pattern's bytes, 0x7F for a DON'T-CARE position (R191). -/
  | setTrigger (port : Port) (entry enable action : Byte) (pattern : List Byte)
  /-- SET_GATING (R72). -/
  | setGating (port : Port) (gated : Byte)
  /-- LOAD_KEYMAP (R50): type and value byte of each assignment (R192). -/
  | loadKeymap (port : Port) (plane first : Byte) (entries : List (Byte × Byte))
  /-- KEYBOARD_LOCK (R55). -/
  | keyboardLock (port : Port)
  /-- KEYBOARD_UNLOCK (R55). -/
  | keyboardUnlock (port : Port)
  /-- SET_KEYBOARD_MODE (R54). -/
  | setKeyboardMode (port : Port) (mode : Byte)
  /-- CONFIGURE_KEYBOARD (R47). -/
  | configureKeyboard (port : Port) (count : Byte)
  /-- CREATE (R93). -/
  | create (port : Port) (choice : Byte)
  /-- APPEND_TEXT (R94). -/
  | appendText (port : Port) (message : Half) (text : List Byte)
  /-- CLOSE (R96). -/
  | close (port : Port) (message : Half)
  /-- READ_TEXT (R97). -/
  | readText (port : Port) (message first : Half) (count : Byte)
  /-- READ_RECORD (R98). -/
  | readRecord (port : Port) (selector : Byte) (value : Half) (clear : Byte)
  /-- SET_DELIVERY (R99): presence bit 0 identity, bit 1 destination, bit 2 option (R192). -/
  | setDelivery (port : Port) (message : Half) (presence option : Byte) (identity destination : List Byte)
  /-- DELETE (R103). -/
  | delete (port : Port) (message : Half)
  /-- CLEAR_OWED (R101). -/
  | clearOwed (port : Port) (message : Half) (flags : Byte)
  /-- START_CHANNEL (R109). -/
  | startChannel (port : Port) (channel : Byte) (message position : Half) (sinks trigger : Byte)
  /-- HOLD (R121). -/
  | hold (port : Port) (channel : Byte)
  /-- RESUME (R121). -/
  | resume (port : Port) (channel : Byte)
  /-- STOP_CHANNEL (R122). -/
  | stopChannel (port : Port) (channel : Byte)
  /-- READ_CHANNEL (R124). -/
  | readChannel (port : Port) (channel : Byte)
  /-- SET_FORMAT (R128). -/
  | setFormat (port : Port) (presence lineLength margin spacing mode crAddsLf : Byte)
  /-- PRINTER_RESTART (R138). -/
  | printerRestart (port : Port)
  /-- PRINT_OWED (R180). -/
  | printOwed (port : Port)
  /-- PUNCH_FEED (R149). -/
  | punchFeed (port : Port) (count : Half)
  /-- PUNCH_ON (R148). -/
  | punchOn (port : Port)
  /-- PUNCH_OFF (R148). -/
  | punchOff (port : Port)
  /-- PUNCH_RESUME (R147). -/
  | punchResume (port : Port)
  /-- CONFIGURE_PUNCH (R150). -/
  | configurePunch (port : Port) (presence : Byte) (allowance : Half) (clear : Byte)
  /-- READ_SLOT (R164). -/
  | readSlot (port : Port) (slot : Byte)
  /-- PROGRAM_SLOT (R155); writeEnable is the level of IDENTITY WRITE ENABLE when the command is taken (R154). -/
  | programSlot (port : Port) (writeEnable : Bool) (slot first : Byte) (text : List Byte)
  /-- COMMIT_SLOT (R157). -/
  | commitSlot (port : Port) (writeEnable : Bool) (slot length : Byte)
  /-- PROTECT (R159). -/
  | protect (port : Port) (writeEnable : Bool)
  /-- CALL_IN (R167). -/
  | callIn (port : Port)
  /-- CALL_OUT (R167). -/
  | callOut (port : Port)
  /-- CALL_CLEARED (R168). -/
  | callCleared (port : Port)
  /-- AUTO_SEND (R177). -/
  | autoSend (port : Port) (message : Half)
  /-- SEND_ANSWER_BACK (R171). -/
  | sendAnswerBack (port : Port)
  /-- SEND_WRU (R171). -/
  | sendWru (port : Port)
  /-- CONFIGURE_ANSWERING (R166). -/
  | configureAnswering (port : Port) (presence mode identify settle : Byte) (idle mutilation : Half)
      (attempts autoDrain wruResponse : Byte)
  /-- START_EDGE (R23): a mark-to-space transition on LINE IN outside a character under reception. -/
  | startEdge
  /-- STOP_SAMPLE (R24): slot 416. -/
  | stopSample
  /-- MARK_RETURN (R27): a space-to-mark transition on LINE IN outside a character under reception. -/
  | markReturn
  /-- LINE_BREAK (R26): the space period reaches the break time. -/
  | lineBreak
  /-- LINE_RATE (R20): a pending rate change is made. -/
  | lineRate
  /-- CHARACTER_END (R35). -/
  | characterEnd
  /-- RELEASE_INTERVAL_EXPIRY (R40). -/
  | releaseIntervalExpiry
  /-- KEY_SCAN (R46): bit n is set when key n was seen down in the scan that ends. -/
  | keyScan (seen : BitVec 64)
  /-- KEYBOARD_DELIVERY (R53). -/
  | keyboardDelivery
  /-- CHANNEL_DELIVERY (R114). -/
  | channelDelivery (channel : Chan)
  /-- PRINT_COMPLETION (R127). -/
  | printCompletion
  /-- CARRIAGE_HOME (R131). -/
  | carriageHome
  /-- CARRIAGE_JAM (R137). -/
  | carriageJam
  /-- PAPER_OUT (R135). -/
  | paperOut
  /-- PAPER_PRESENT (R136). -/
  | paperPresent
  /-- BELL_EXPIRY (R134). -/
  | bellExpiry
  /-- PUNCH_ROW_COMPLETION (R144). -/
  | punchRowCompletion
  /-- PUNCH_TAPE_OUT (R145). -/
  | punchTapeOut
  /-- TAPE_LOW (R145). -/
  | tapeLow
  /-- TAPE_PRESENT (R145). -/
  | tapePresent
  /-- PUNCH_SWITCH_OFF (R148). -/
  | punchSwitchOff
  /-- PUNCH_SWITCH_ON (R148). -/
  | punchSwitchOn
  /-- SCRUB (R104). -/
  | scrub
  /-- SECONDS_TICK (R105). -/
  | secondsTick
  /-- PROGRAM_COMPLETION (R156). -/
  | programCompletion
  /-- COMMIT_CELL_WRITE (R158). -/
  | commitCellWrite
  /-- PROTECT_COMPLETION (R159). -/
  | protectCompletion
  /-- PROTECTED_FAIL_COMPLETION (R159). -/
  | protectedFailCompletion
  /-- SETTLE_EXPIRY (R169). -/
  | settleExpiry
  /-- CAPTURE_START_EXPIRY (R170). -/
  | captureStartExpiry
  /-- CAPTURE_GAP_EXPIRY (R170). -/
  | captureGapExpiry
  /-- IDLE_TIMER_EXPIRY (R173). -/
  | idleTimerExpiry
  /-- BREAK_GUARD_EXPIRY (R174). -/
  | breakGuardExpiry
  /-- CLEARING_GUARD_EXPIRY (R174). -/
  | clearingGuardExpiry
  /-- DRAIN_START (R180). -/
  | drainStart
  /-- START_CHECK (R23): slot 32. -/
  | startCheck
  /-- UNIT_SAMPLE (R24): slots 96, 160, 224, 288 and 352. -/
  | unitSample
  /-- TIMED_TRANSITION (R29): a transition on LINE IN at the given slot of the character under reception. -/
  | timedTransition (slot : Nat)
deriving DecidableEq, Repr

end Sys2Proof
end

