-- ==== Sys2Proof/Decode.lean ====
section
/-! DEFINITION. How a command reaches the part. The opcode table gives no row any bits, so decodeTableWord reads none. What the
manual gives instead is the framing of a request (R182, R190, R192): frameRequest reads the bytes of a transaction, and
requestBytes writes the bytes of a port command. -/

namespace Sys2Proof

/-- No row of the table has bits, so no word spells a command (log entry 24). -/
def decodeTableWord (_nbits _w : Nat) : Option Instr := none

/-- What a transaction carries (R182). -/
inductive Request where
  /-- Fewer than two bytes: no request. -/
  | nothing
  /-- A malformed request with its command code. -/
  | malformed (code : Byte)
  /-- A command for its owner. -/
  | command (i : Instr)
deriving DecidableEq, Repr

/-- What the part reads from its pins and timers when a request is taken (R21, R154; log entry 12). -/
structure Readings where
  spaceMs : Nat
  writeEnable : Bool
deriving DecidableEq, Repr

/-- Two bytes, the most significant first (R192). -/
def half (hi lo : Byte) : Half := hi ++ lo

/-- The two bytes of a half word, the most significant first. -/
def halfBytes (h : Half) : List Byte := [h.extractLsb' 8 8, h.extractLsb' 0 8]

/-- Four bytes of a seconds value (R192). -/
def wordBytes (w : Word) : List Byte :=
  [w.extractLsb' 24 8, w.extractLsb' 16 8, w.extractLsb' 8 8, w.extractLsb' 0 8]

/-- The six bytes of an event mask: bit n of byte n / 8 admits kind n (R194). -/
def eventMaskBytes (m : BitVec 48) : List Byte :=
  [m.extractLsb' 0 8, m.extractLsb' 8 8, m.extractLsb' 16 8, m.extractLsb' 24 8, m.extractLsb' 32 8, m.extractLsb' 40 8]

/-- No argument bytes. -/
def parse0 (i : Instr) (args : List Byte) : Option Instr := match args with
  | [] => some i
  | _ => none

/-- One argument byte. -/
def parse1 (f : Byte → Instr) (args : List Byte) : Option Instr := match args with
  | [a] => some (f a)
  | _ => none

/-- One two-byte number. -/
def parseHalf (f : Half → Instr) (args : List Byte) : Option Instr := match args with
  | [h, l] => some (f (half h l))
  | _ => none

/-- SET EVENT MASK's six bytes. -/
def parseMask (p : Port) (args : List Byte) : Option Instr := match args with
  | [a, b, c, d, e, f] => some (.setEventMask p (f ++ e ++ d ++ c ++ b ++ a))
  | _ => none

/-- SET CLOCK's four bytes. -/
def parseClock (p : Port) (args : List Byte) : Option Instr := match args with
  | [a, b, c, d] => some (.setClock p (a ++ b ++ c ++ d))
  | _ => none

/-- CONFIGURE LINE's nine bytes: presence, then the seven settings in R21's order. -/
def parseLine (p : Port) (spaceMs : Nat) (args : List Byte) : Option Instr := match args with
  | [pr, rate, stop, bh, bl, thr, tx, rx, rel] =>
    some (.configureLine p pr rate stop (half bh bl) thr tx rx rel spaceMs)
  | _ => none

/-- ROUTE: row, function, mask. -/
def parseRoute (p : Port) (args : List Byte) : Option Instr := match args with
  | [r, f, m] => some (.route p r f m)
  | _ => none

/-- SET TRIGGER: entry, enable, action, and 0 to 8 positions that end the request. -/
def parseTrigger (p : Port) (args : List Byte) : Option Instr := match args with
  | e :: en :: a :: pattern => if pattern.length ≤ 8 then some (.setTrigger p e en a pattern) else none
  | _ => none

/-- Bytes taken two by two; none for an odd number. -/
def pairUp : List Byte → Option (List (Byte × Byte))
  | [] => some []
  | [_] => none
  | a :: b :: rest => (pairUp rest).map fun ps => (a, b) :: ps

/-- LOAD KEYMAP: plane, first position, and 1 to 32 assignments of two bytes. -/
def parseKeymap (p : Port) (args : List Byte) : Option Instr := match args with
  | plane :: first :: rest =>
    match pairUp rest with
    | some entries => if 1 ≤ entries.length ∧ entries.length ≤ 32 then some (.loadKeymap p plane first entries) else none
    | none => none
  | _ => none

/-- APPEND TEXT: message, and 1 to 32 symbols that end the request. -/
def parseAppend (p : Port) (args : List Byte) : Option Instr := match args with
  | h :: l :: text => if 1 ≤ text.length ∧ text.length ≤ 32 then some (.appendText p (half h l) text) else none
  | _ => none

/-- READ TEXT: message, first position, count. -/
def parseReadText (p : Port) (args : List Byte) : Option Instr := match args with
  | [mh, ml, fh, fl, n] => some (.readText p (half mh ml) (half fh fl) n)
  | _ => none

/-- READ RECORD: selector, value, clear option. -/
def parseReadRecord (p : Port) (args : List Byte) : Option Instr := match args with
  | [sel, h, l, c] => some (.readRecord p sel (half h l) c)
  | _ => none

/-- SET DELIVERY: message, presence, option, identity run, destination run; the length agrees with both count bytes and is at
most 42. -/
def parseDelivery (p : Port) (args : List Byte) : Option Instr := match args with
  | h :: l :: pr :: opt :: n :: rest =>
    match rest.drop n.toNat with
    | m :: dest =>
      if args.length ≤ 42 ∧ dest.length = m.toNat then
        some (.setDelivery p (half h l) pr opt (rest.take n.toNat) dest)
      else none
    | [] => none
  | _ => none

/-- CLEAR OWED: message, flags. -/
def parseOwed (p : Port) (args : List Byte) : Option Instr := match args with
  | [h, l, f] => some (.clearOwed p (half h l) f)
  | _ => none

/-- START CHANNEL: channel, message, position, sinks, trigger. -/
def parseStart (p : Port) (args : List Byte) : Option Instr := match args with
  | [c, mh, ml, ph, pl, k, t] => some (.startChannel p c (half mh ml) (half ph pl) k t)
  | _ => none

/-- SET FORMAT: presence, then the five fields. -/
def parseFormat (p : Port) (args : List Byte) : Option Instr := match args with
  | [pr, len, mar, sp, mode, cr] => some (.setFormat p pr len mar sp mode cr)
  | _ => none

/-- CONFIGURE PUNCH: presence, allowance, clear option. -/
def parsePunch (p : Port) (args : List Byte) : Option Instr := match args with
  | [pr, h, l, c] => some (.configurePunch p pr (half h l) c)
  | _ => none

/-- PROGRAM SLOT: slot, first position, and 1 to 20 symbols that end the request. -/
def parseProgram (p : Port) (we : Bool) (args : List Byte) : Option Instr := match args with
  | slot :: first :: text =>
    if 1 ≤ text.length ∧ text.length ≤ 20 then some (.programSlot p we slot first text) else none
  | _ => none

/-- COMMIT SLOT: slot, length. -/
def parseCommit (p : Port) (we : Bool) (args : List Byte) : Option Instr := match args with
  | [slot, len] => some (.commitSlot p we slot len)
  | _ => none

/-- CONFIGURE ANSWERING's eleven bytes: presence, then the eight settings in R166's order. -/
def parseAnswering (p : Port) (args : List Byte) : Option Instr := match args with
  | [pr, mode, ident, settle, ih, il, mh, ml, att, drain, wru] =>
    some (.configureAnswering p pr mode ident settle (half ih il) (half mh ml) att drain wru)
  | _ => none

/-- The command a code and its argument bytes make, by the command code table (R190); none where the table does not give the
code or the length does not fit. -/
def parseArgs (p : Port) (rd : Readings) (code : Byte) (args : List Byte) : Option Instr :=
  match code.toNat with
  | 0x01 => parse0 (.nop p) args
  | 0x02 => parse0 (.status p) args
  | 0x03 => parse1 (.readEvents p) args
  | 0x04 => parseMask p args
  | 0x05 => parse0 (.restart p) args
  | 0x06 => parseClock p args
  | 0x10 => parseLine p rd.spaceMs args
  | 0x11 => parse0 (.receiveOn p) args
  | 0x12 => parse0 (.receiveOff p) args
  | 0x13 => parse0 (.transmitOn p) args
  | 0x14 => parse0 (.transmitOff p) args
  | 0x15 => parse0 (.readLineQuality p) args
  | 0x18 => parseRoute p args
  | 0x19 => parseTrigger p args
  | 0x1A => parse1 (.setGating p) args
  | 0x20 => parseKeymap p args
  | 0x21 => parse0 (.keyboardLock p) args
  | 0x22 => parse0 (.keyboardUnlock p) args
  | 0x23 => parse1 (.setKeyboardMode p) args
  | 0x24 => parse1 (.configureKeyboard p) args
  | 0x30 => parse1 (.create p) args
  | 0x31 => parseAppend p args
  | 0x32 => parseHalf (.close p) args
  | 0x33 => parseReadText p args
  | 0x34 => parseReadRecord p args
  | 0x35 => parseDelivery p args
  | 0x36 => parseHalf (.delete p) args
  | 0x37 => parseOwed p args
  | 0x40 => parseStart p args
  | 0x41 => parse1 (.hold p) args
  | 0x42 => parse1 (.resume p) args
  | 0x43 => parse1 (.stopChannel p) args
  | 0x44 => parse1 (.readChannel p) args
  | 0x50 => parseFormat p args
  | 0x51 => parse0 (.printerRestart p) args
  | 0x52 => parse0 (.printOwed p) args
  | 0x58 => parseHalf (.punchFeed p) args
  | 0x59 => parse0 (.punchOn p) args
  | 0x5A => parse0 (.punchOff p) args
  | 0x5B => parse0 (.punchResume p) args
  | 0x5C => parsePunch p args
  | 0x60 => parse1 (.readSlot p) args
  | 0x61 => parseProgram p rd.writeEnable args
  | 0x62 => parseCommit p rd.writeEnable args
  | 0x63 => parse0 (.protect p rd.writeEnable) args
  | 0x70 => parse0 (.callIn p) args
  | 0x71 => parse0 (.callOut p) args
  | 0x72 => parse0 (.callCleared p) args
  | 0x73 => parseHalf (.autoSend p) args
  | 0x74 => parse0 (.sendAnswerBack p) args
  | 0x75 => parse0 (.sendWru p) args
  | 0x76 => parseAnswering p args
  | _ => none

/-- What the bytes clocked in at a port between the fall of select and its release carry (R182). -/
def frameRequest (p : Port) (rd : Readings) (bytes : List Byte) : Request :=
  match bytes with
  | code :: len :: rest =>
    if rest.length < len.toNat then .malformed code
    else match parseArgs p rd code (rest.take len.toNat) with
      | some i => .command i
      | none => .malformed code
  | _ => .nothing

/-- The two bytes of each pair, in order. -/
def unpair (ps : List (Byte × Byte)) : List Byte := ps.flatMap fun e => [e.1, e.2]

/-- A request of a code with its argument bytes (R190). -/
def frame (code : Byte) (args : List Byte) : Option (List Byte) := some (code :: BitVec.ofNat 8 args.length :: args)

/-- A run with its count byte (R192). -/
def countedRun (bs : List Byte) : List Byte := BitVec.ofNat 8 bs.length :: bs

/-- The bytes that carry a port command (R190, R192); none for a row that is not a command of the command code table. -/
def requestBytes : Instr → Option (List Byte)
  | .coldReset => none
  | .warmReset => none
  | .malformedRequest _ _ => none
  | .nop _ => frame 0x01 []
  | .status _ => frame 0x02 []
  | .readEvents _ n => frame 0x03 [n]
  | .setEventMask _ m => frame 0x04 (eventMaskBytes m)
  | .restart _ => frame 0x05 []
  | .setClock _ w => frame 0x06 (wordBytes w)
  | .configureLine _ pr rate stop brk thr tx rx rel _ =>
    frame 0x10 ([pr, rate, stop] ++ halfBytes brk ++ [thr, tx, rx, rel])
  | .receiveOn _ => frame 0x11 []
  | .receiveOff _ => frame 0x12 []
  | .transmitOn _ => frame 0x13 []
  | .transmitOff _ => frame 0x14 []
  | .readLineQuality _ => frame 0x15 []
  | .route _ r f m => frame 0x18 [r, f, m]
  | .setTrigger _ e en a pattern => frame 0x19 (e :: en :: a :: pattern)
  | .setGating _ g => frame 0x1A [g]
  | .loadKeymap _ plane first entries => frame 0x20 (plane :: first :: unpair entries)
  | .keyboardLock _ => frame 0x21 []
  | .keyboardUnlock _ => frame 0x22 []
  | .setKeyboardMode _ m => frame 0x23 [m]
  | .configureKeyboard _ d => frame 0x24 [d]
  | .create _ c => frame 0x30 [c]
  | .appendText _ m text => frame 0x31 (halfBytes m ++ text)
  | .close _ m => frame 0x32 (halfBytes m)
  | .readText _ m first n => frame 0x33 (halfBytes m ++ halfBytes first ++ [n])
  | .readRecord _ sel v c => frame 0x34 (sel :: (halfBytes v ++ [c]))
  | .setDelivery _ m pr opt ident dest =>
    frame 0x35 (halfBytes m ++ [pr, opt] ++ countedRun ident ++ countedRun dest)
  | .delete _ m => frame 0x36 (halfBytes m)
  | .clearOwed _ m f => frame 0x37 (halfBytes m ++ [f])
  | .startChannel _ c m q k t => frame 0x40 (c :: (halfBytes m ++ halfBytes q ++ [k, t]))
  | .hold _ c => frame 0x41 [c]
  | .resume _ c => frame 0x42 [c]
  | .stopChannel _ c => frame 0x43 [c]
  | .readChannel _ c => frame 0x44 [c]
  | .setFormat _ pr len mar sp mode cr => frame 0x50 [pr, len, mar, sp, mode, cr]
  | .printerRestart _ => frame 0x51 []
  | .printOwed _ => frame 0x52 []
  | .punchFeed _ n => frame 0x58 (halfBytes n)
  | .punchOn _ => frame 0x59 []
  | .punchOff _ => frame 0x5A []
  | .punchResume _ => frame 0x5B []
  | .configurePunch _ pr a c => frame 0x5C (pr :: (halfBytes a ++ [c]))
  | .readSlot _ n => frame 0x60 [n]
  | .programSlot _ _ slot first text => frame 0x61 (slot :: first :: text)
  | .commitSlot _ _ slot len => frame 0x62 [slot, len]
  | .protect _ _ => frame 0x63 []
  | .callIn _ => frame 0x70 []
  | .callOut _ => frame 0x71 []
  | .callCleared _ => frame 0x72 []
  | .autoSend _ m => frame 0x73 (halfBytes m)
  | .sendAnswerBack _ => frame 0x74 []
  | .sendWru _ => frame 0x75 []
  | .configureAnswering _ pr mode ident settle idle mutil att drain wru =>
    frame 0x76 ([pr, mode, ident, settle] ++ halfBytes idle ++ halfBytes mutil ++ [att, drain, wru])
  | .startEdge => none
  | .stopSample => none
  | .markReturn => none
  | .lineBreak => none
  | .lineRate => none
  | .characterEnd => none
  | .releaseIntervalExpiry => none
  | .keyScan _ => none
  | .keyboardDelivery => none
  | .channelDelivery _ => none
  | .printCompletion => none
  | .carriageHome => none
  | .carriageJam => none
  | .paperOut => none
  | .paperPresent => none
  | .bellExpiry => none
  | .punchRowCompletion => none
  | .punchTapeOut => none
  | .tapeLow => none
  | .tapePresent => none
  | .punchSwitchOff => none
  | .punchSwitchOn => none
  | .scrub => none
  | .secondsTick => none
  | .programCompletion => none
  | .commitCellWrite => none
  | .protectCompletion => none
  | .protectedFailCompletion => none
  | .settleExpiry => none
  | .captureStartExpiry => none
  | .captureGapExpiry => none
  | .idleTimerExpiry => none
  | .breakGuardExpiry => none
  | .clearingGuardExpiry => none
  | .drainStart => none
  | .startCheck => none
  | .unitSample => none
  | .timedTransition _ => none

end Sys2Proof
end

