-- ==== Sys2Proof/Config.lean ====
section
/-! DEFINITION. What the part fixes (numbers of the manual) and the FREE VALUES: what the manual leaves open, each an
opaque constant that nothing in Lean can evaluate (log entries 8, 9, 10, 15 and 19). -/

namespace Sys2Proof.Config

/-- The divisor of the 4.9152 MHz reference for each rate code (R19). -/
def divisor (rate : Nat) : Nat :=
  match rate with
  | 0 => 1690
  | 1 => 1536
  | 2 => 1024
  | 3 => 768
  | 4 => 384
  | _ => 256

/-- The store's blocks (R80). -/
abbrev blocks : Nat := 512

/-- Symbol positions of a block (R80). -/
abbrev blockSize : Nat := 32

/-- Records the directory can hold (R84). -/
abbrev directorySize : Nat := 48

/-- Free blocks that PREPARED messages may not take (R89). -/
abbrev blockReserve : Nat := 16

/-- The number of free directory entries that PREPARED messages may not take (R89). -/
abbrev directoryReserve : Nat := 4

/-- Ceiling of the saturating counters (R31, R81, R85, R90, R143). -/
abbrev countMax : Nat := 65535

/-- What a check code makes of the wrong bits of one block or slot (R81, R161). -/
inductive Verdict where
  /-- The code agrees. -/
  | clean
  /-- The code takes the bit of that number for the one wrong bit. -/
  | corrected (bit : Nat)
  /-- The code detects an error it cannot correct. -/
  | uncorrectable
deriving DecidableEq, Repr, Inhabited

/-- FREE VALUE (log entry 8): what a store block's check code makes of three or more wrong bits. -/
opaque blockVerdict : List Nat → Verdict

/-- FREE VALUE (log entry 8): what a slot's check code makes of three or more wrong bits. -/
opaque slotVerdict : List Nat → Verdict

/-- FREE VALUE (log entry 8): how the part reads a stored byte whose class bits hold the fourth value, which only three
or more undetected wrong bits can leave: 0, 1 or 2 for N, L or F. -/
opaque fourthClass : Byte → Nat

/-- FREE VALUE (log entry 10): the identity check code over the 20 positions and the length (R153, R158). -/
opaque identityCheck : List Byte → Byte → Half

/-- FREE VALUE (log entry 9): how many positions a PROGRAM operation has written when it is looked at or cut (R160). -/
opaque programProgress : Nat → Nat

/-- FREE VALUE (log entry 9): which bits of the position being written are still unwritten then (R160). -/
opaque programPartial : Nat → Byte

/-- FREE VALUE (log entry 15): whether the capture sees a received symbol before the trigger recogniser does (R61). -/
opaque captureFirst : Nat → Bool

/-- The mutilation glyph (R133): bit 5 (row - 1) + (column - 1) is a dot where row and column, from 1, are both odd or both
even. -/
abbrev mutilationGlyph : BitVec 35 := 0x555555555

/-- FREE VALUE (log entry 19): a one-to-one numbering of the 5 by 7 patterns, from which the glyphs are read. -/
opaque glyphTable : Equiv.Perm (BitVec 35)

/-- The number of the glyph of a code in letters (false) or figures (true) class; 64 is that of the mutilation glyph. -/
def glyphNumber (code : BitVec 5) (figures : Bool) : BitVec 35 := (BitVec.ofBool figures ++ code).zeroExtend 35

/-- The dots of the glyph of a code in letters or figures class, row by row (R133): the free table's, with the patterns of number
64 and of the mutilation glyph exchanged, so that each glyph is its own and none is the mutilation glyph, and nothing more is
known of them (log entry 19). -/
def glyph (code : BitVec 5) (figures : Bool) : BitVec 35 :=
  Equiv.swap (glyphTable 64) mutilationGlyph (glyphTable (glyphNumber code figures))

end Sys2Proof.Config
end

