-- ==== Sys2Proof/Machine/Types.lean ====
section
/-! DEFINITION. The kinds of value the part's state is made of: symbols, sinks, patterns, key assignments, events,
answers. Plain data only. -/

namespace Sys2Proof.Machine

/-- The class of a symbol (R4). -/
inductive Cls where
  /-- N, neutral. -/
  | neutral
  /-- L, letters. -/
  | letters
  /-- F, figures. -/
  | figures
deriving DecidableEq, Repr, Inhabited

/-- A symbol: code, class and mutilated mark (R4). -/
structure Symbol where
  code : BitVec 5
  cls : Cls
  mutilated : Bool
deriving DecidableEq, Repr, Inhabited

/-- The nine kinds of symbol a sink tells apart (R6). -/
inductive Kind where
  | mutilated
  | explicitShift
  | blank
  | cr
  | lf
  | space
  | bell
  | wru
  | printable
deriving DecidableEq, Repr

/-- TX case and punch case (R7, R9). -/
inductive Case3 where
  | letters
  | figures
  | unknown
deriving DecidableEq, Repr

/-- RX case (R8). -/
inductive Case2 where
  | letters
  | figures
deriving DecidableEq, Repr

/-- Receiver states, in the order of R22. -/
inductive RxState where
  | off
  | hunting
  | starting
  | assembling
  | spacingHold
deriving DecidableEq, Repr

/-- The requesters of the transmit arbiter, in the order of R193. -/
inductive Requester where
  | keyboard
  | chan (c : Chan)
  | control
deriving DecidableEq, Repr

/-- Answer-back states, in the order of section 2.6. -/
inductive AbState where
  | none
  | pending
  | sending
deriving DecidableEq, Repr

/-- The character in flight: its code, the stop length it was taken with, and whether it is an inserted shift (R34, R21). -/
structure TxChar where
  code : BitVec 5
  stop : Nat
  inserted : Bool
deriving DecidableEq, Repr

/-- Keyboard modes (R54). -/
inductive KbMode where
  | line
  | loc
deriving DecidableEq, Repr

/-- Function keys (R49). -/
inductive Function where
  | hereIs
  | wru
  | breakIn
  | lineLocal
  | send
  | report (n : Nat)
deriving DecidableEq, Repr

/-- What a key is assigned in one plane of the map (R49). -/
inductive Assignment where
  | none
  | symbol (y : Symbol)
  | shift
  | function (f : Function)
deriving DecidableEq, Repr

/-- One key: confirmed down, and the run of scans that saw it opposite (R47). -/
structure Key where
  down : Bool
  run : Nat
deriving DecidableEq, Repr

/-- A set of the four sinks (R63). -/
structure SinkSet where
  transmitter : Bool
  printer : Bool
  punch : Bool
  store : Bool
deriving DecidableEq, Repr

/-- What a sink answers to an offer (R62). -/
inductive Offer where
  | takes
  | forTime
  | permanent
deriving DecidableEq, Repr

/-- A position of a pattern (R73). -/
inductive PatPos where
  | symbol (y : Symbol)
  | dontCare
deriving DecidableEq, Repr

/-- Trigger actions, in the order of R75. -/
inductive TriggerAction where
  | endMessage
  | clearRequest
  | openGate
  | shutGate
  | sendHeld
  | report
deriving DecidableEq, Repr

/-- A trigger table entry that is not empty (R75). -/
structure Trigger where
  enable : Bool
  pattern : List PatPos
  action : TriggerAction
deriving DecidableEq, Repr

/-- Holders of an OPEN message, in the order of R85. -/
inductive Holder where
  | line
  | keyboard
  | port (p : Port)
deriving DecidableEq, Repr

/-- Message kinds (R85). -/
inductive MsgKind where
  | received
  | prepared
deriving DecidableEq, Repr

/-- Message states (R85). -/
inductive MsgState where
  | opened
  | closed
  | incomplete
deriving DecidableEq, Repr

/-- Delivery states (R85). -/
inductive Delivery where
  | none
  | ready
  | sending
  | sent
  | failed
  | held
  | collected
deriving DecidableEq, Repr

/-- One block of a message's chain: its number, its fill, and whether it is DAMAGED (R83, R86). -/
structure ChainBlock where
  block : Nat
  fill : Nat
  damaged : Bool
deriving DecidableEq, Repr

/-- A message record (R85) with its chain (R86). An empty identity or destination is an absent one. -/
structure Record where
  number : Nat
  kind : MsgKind
  state : MsgState
  holder : Option Holder
  damaged : Bool
  truncated : Bool
  printOwed : Bool
  punchOwed : Bool
  openedAt : Word
  closedAt : Option Word
  worstP : Nat
  overCount : Nat
  mutilatedCount : Nat
  remote : List Symbol
  expected : List PatPos
  destination : List Nat
  delivery : Delivery
  attempts : Nat
  readers : Nat
  chain : List ChainBlock
deriving DecidableEq, Repr

/-- Who reads a store block, in the order of R81. -/
inductive Reader where
  | readText
  | channel
  | scrubber
  | append
deriving DecidableEq, Repr

/-- Channel triggers, in the order of R108. -/
inductive ChTrigger where
  | now
  | sendKey
  | callOut
deriving DecidableEq, Repr

/-- Who started a channel, in the order of R108. -/
inductive Starter where
  | port (p : Port)
  | sequencer
deriving DecidableEq, Repr

/-- Why a channel is HELD, in the order of R108. -/
inductive HoldReason where
  | lineBreak
  | key
  | callEnd
  | command
  | sink
deriving DecidableEq, Repr

/-- The state of a channel that is not IDLE (R108). -/
inductive ChPhase where
  | pending
  | running
  | waiting
  | held (reason : HoldReason)
deriving DecidableEq, Repr

/-- A channel's read-ahead copy (R112). -/
structure Copy where
  index : Nat
  symbols : List Symbol
  valid : Bool
deriving DecidableEq, Repr

/-- The record of a channel that is not IDLE (R108). -/
structure ChanWork where
  phase : ChPhase
  message : Nat
  position : Nat
  sinks : SinkSet
  trigger : ChTrigger
  occurred : Bool
  starter : Starter
  copy : Option Copy
deriving DecidableEq, Repr

/-- What a channel reports to the Call Sequencer (R115, R117, R120, R122). -/
inductive Report where
  | done
  | aborted
  | held (reason : HoldReason)
  | stopped
deriving DecidableEq, Repr

/-- Printer engine states, in the order of chapter 7. -/
inductive PrEngine where
  | idle
  | busy
  | stopped
  | fault
deriving DecidableEq, Repr

/-- End-of-line modes (R128). -/
inductive EolMode where
  | hold
  | wrap
deriving DecidableEq, Repr

/-- A format record (R128). -/
structure Format where
  lineLength : Nat
  margin : Nat
  spacing : Nat
  mode : EolMode
  crAddsLf : Bool
deriving DecidableEq, Repr

/-- Why a carriage return runs (R129, R132, R138, R141). -/
inductive CrCause where
  /-- A CR taken from the queue. -/
  | queue
  /-- Owed by WRAP. -/
  | wrap
  /-- PRINTER RESTART. -/
  | restart
  /-- The homing return after a reset. -/
  | homing
deriving DecidableEq, Repr

/-- The target format a carriage return fixed at home: the record, whether it was the pending one, and whether a later
SET FORMAT has set the pending record for the next return (R129; log entry 21). -/
structure CrTarget where
  format : Format
  fromPending : Bool
  superseded : Bool
deriving DecidableEq, Repr

/-- The printer's operation in flight (R127). -/
inductive PrintOp where
  /-- A glyph, the mutilation glyph or a SPACE step of that symbol (R130, R133). -/
  | advance (y : Symbol)
  /-- A carriage return from a column (none: not known), with the target once home is reached (R131). -/
  | carriageReturn (cause : CrCause) (start : Option Nat) (target : Option CrTarget)
  /-- A line feed of that many lines (R132). -/
  | lineFeed (spacing : Nat)
  /-- A margin move over that many columns (R129). -/
  | marginMove (columns : Nat)
deriving DecidableEq, Repr

/-- The follow-on owed (R132). -/
inductive FollowOn where
  | none
  | lf
  | crLf
deriving DecidableEq, Repr

/-- Punch engine states, in the order of chapter 8. -/
inductive PuEngine where
  | idle
  | busy
  | tapeOut
  | off
deriving DecidableEq, Repr

/-- Causes of PUNCH OFF, in the order of R148. -/
inductive OffCause where
  | switch
  | command
deriving DecidableEq, Repr

/-- One identity slot (R153). The check code cell has 16 bits, a width the manual does not give (log entry 10). Cells of the length and the check code hold all ones when unwritten.
wrongBits: bits gone wrong since the commit (log entry 8); deadBits: cells that do not take a write (log entry 11). Bits
are numbered 0-159 positions, 160-167 length, 168-183 check code, 184-187 count cells, 188 commit marker. -/
structure IdSlot where
  positions : List Byte
  length : Byte
  count : List Bool
  check : Half
  marker : Bool
  wrongBits : List Nat
  deadBits : List Nat
deriving DecidableEq, Repr

/-- The identity operation in flight (R154), with its progress. -/
inductive IdOp where
  /-- PROGRAM of symbols from a first position (R156). -/
  | program (slot first : Nat) (text : List Byte)
  /-- COMMIT of a length with the check code computed when it was taken, and how many of the three cells it has
  written (R158). -/
  | commit (slot : Nat) (length : Byte) (code : Half) (written : Nat)
  /-- PROTECT (R159). -/
  | protect
  /-- PROTECTED-FAIL of a PROGRAM (false) or a COMMIT (true) of a slot (R159). -/
  | protectedFail (commit : Bool) (slot : Nat)
deriving DecidableEq, Repr

/-- The answer-back latch when it holds text (R161). -/
structure Latch where
  slot : Nat
  text : List Symbol
deriving DecidableEq, Repr

/-- Call states, in the order of R165. -/
inductive CallState where
  | idle
  | incoming
  | outgoing
  | clearing
deriving DecidableEq, Repr

/-- Answering modes (R166). -/
inductive AnsMode where
  | attended
  | unattended
deriving DecidableEq, Repr

/-- Call phases, in the order of R165. -/
inductive CallPhase where
  | settle
  | capture
  | traffic
  | autoSend
  | collection
deriving DecidableEq, Repr

/-- Capture statuses, in the order of R165. -/
inductive CapStatus where
  | none
  | captured
  | timeout
deriving DecidableEq, Repr

/-- The steps of an automatic send (R177 to R179). HEADER and TRAILER are each held as the three things they wait for
(log entry 22). -/
inductive AutoStep where
  | wru
  | capture
  /-- HEADER, waiting for the answer-back to end. -/
  | headerAnswer
  /-- HEADER, CR handed to CONTROL. -/
  | headerCr
  /-- HEADER, LF handed to CONTROL. -/
  | headerLf
  | body
  /-- TRAILER, CR handed to CONTROL. -/
  | trailerCr
  /-- TRAILER, LF handed to CONTROL. -/
  | trailerLf
  /-- TRAILER, waiting for the answer-back to end. -/
  | trailerAnswer
deriving DecidableEq, Repr

/-- The auto-send record (R165). -/
structure AutoSend where
  message : Nat
  step : AutoStep
  channel : Option Chan
deriving DecidableEq, Repr

/-- The collection record (R165). -/
structure Collection where
  remaining : List Nat
  current : Option (Nat × Chan)
  collected : Nat
  skipped : Nat
deriving DecidableEq, Repr

/-- Causes of a clear request, in the order of R172. -/
inductive ClearCause where
  | trigger
  | mutilation
  | idle
  | autoSend
deriving DecidableEq, Repr

/-- Causes of AUTO SEND FAILED: IDENT of R178, then the table of R179 (log entry 16). -/
inductive AutoCause where
  | ident
  | channel
  | aborted
  | held
  | stopped
  | cleared
deriving DecidableEq, Repr

/-- Causes of CALL (log entry 16). -/
inductive CallCause where
  | callIn
  | callOut
  | callCleared
  | self
deriving DecidableEq, Repr

/-- Causes of SELF-CLEARED; R174 names them without a list of their own (log entry 16). -/
inductive SelfCause where
  | clearing
  | breakIn
deriving DecidableEq, Repr

/-- Causes of a warm reset, in the order of R189. -/
inductive ResetCause where
  | pin
  | port (p : Port)
deriving DecidableEq, Repr

/-- Causes of STORE FULL, in the order R90 names them (log entry 16). -/
inductive FullCause where
  | directory
  | blocks
deriving DecidableEq, Repr

/-- The identity operations named by IDENTITY DONE and IDENTITY FAIL (R156, R158, R159). -/
inductive IdKind where
  | program
  | commit
  | protect
deriving DecidableEq, Repr

/-- Why an identity operation failed; R156 and R159 name them without a list of their own (log entry 16). -/
inductive IdReason where
  | verify
  | protectedStore
deriving DecidableEq, Repr

/-- The forty events, in the order of their kinds (R194). -/
inductive Event where
  | restarted (cause : ResetCause)
  | lineRate (rate : Nat)
  | breakDetected
  | distortion (p : Nat)
  | wruAnswered (sent absorbed : Nat) (noIdentity : Bool)
  | keyboardMode (mode : KbMode)
  | keyBreak
  | key (n : Nat)
  | trigger (entry : Nat)
  | messageOpened (number : Nat)
  | messageClosed (number : Nat) (state : MsgState)
  | messageDeleted (number : Nat)
  /-- number 0: no message (R192). -/
  | storeFull (number : Nat) (cause : FullCause)
  | storeDamaged (number index : Nat) (reader : Reader)
  | channelDone (c : Chan) (number : Nat)
  | channelAborted (c : Chan) (number position : Nat)
  | channelHeld (c : Chan) (number position : Nat) (reason : HoldReason)
  | channelStopped (c : Chan) (number position : Nat)
  | printerStopped
  | printerReady
  | printerFault
  | formatLoaded
  | punchTapeLow (allowance : Nat)
  | punchTapeOut
  | punchReady
  | punchOff (cause : OffCause)
  /-- slot and count cells left where the event's parentheses name them. -/
  | identityDone (kind : IdKind) (slot left : Option Nat)
  | identityFail (kind : IdKind) (slot : Option Nat) (reason : IdReason) (left : Option Nat)
  | identityCorrected (slot : Nat)
  | identityBad (slot : Nat)
  | call (state : CallState) (cause : CallCause)
  | capture (status : CapStatus) (count : Nat) (first : List Symbol)
  | clearRequested (cause : ClearCause)
  | idleTimeout
  | selfCleared (cause : SelfCause)
  | collectionSkipped (number : Nat)
  | collectionDone (collected skipped : Nat)
  | autoSendDone (number : Nat)
  | autoSendFailed (number : Nat) (cause : AutoCause)
  | owedPrinted (number : Nat)
deriving DecidableEq, Repr

/-- Answer statuses, in the order of R184. -/
inductive Status where
  | done
  | started
  | damaged
  | refused
deriving DecidableEq, Repr

/-- Reasons of a refusal, in the order of R184. -/
inductive Reason where
  | format
  | range
  | busy
  | state
  | noSuch
  | full
  | notHolder
  | locked
  | order
  | count
deriving DecidableEq, Repr

/-- One answer (R183): echoed command code, status, reason for REFUSED only, result bytes. -/
structure Answer where
  code : Byte
  status : Status
  reason : Option Reason
  result : List Byte
deriving DecidableEq, Repr

/-- A transaction in progress at a port (R182, R190): the bits sampled on data in since select fell, the first sampled first, and
how often clock has fallen since, which tells the bit on data out. -/
structure Transfer where
  bitsIn : List Bool
  falls : Nat
deriving DecidableEq, Repr

/-- The seven condition flags of one port (R188). -/
structure Flags where
  framingSeen : Bool
  distortionSeen : Bool
  printLost : Bool
  punchLost : Bool
  storeCorrected : Bool
  storeUncorrectable : Bool
  eventsLost : Bool
deriving DecidableEq, Repr

/-- The names of the condition flags set in both ports (R188). -/
inductive Flag where
  | framingSeen
  | distortionSeen
  | printLost
  | punchLost
  | storeCorrected
  | storeUncorrectable
deriving DecidableEq, Repr

end Sys2Proof.Machine
end

