-- ==== Sys2Proof/Machine/KeyMap.lean ====
section
/-! DEFINITION. The built-in key map (R51) and the named symbols of the code table (R2). -/

namespace Sys2Proof.Machine

/-- A symbol in class L of a code (R2). -/
def letter (code : BitVec 5) : Symbol := ⟨code, .letters, false⟩

/-- A symbol in class F of a code (R2). -/
def figure (code : BitVec 5) : Symbol := ⟨code, .figures, false⟩

/-- A symbol in class N of a code (R3, R4). -/
def neutral (code : BitVec 5) : Symbol := ⟨code, .neutral, false⟩

/-- BLANK (neutral). -/
abbrev symBlank : Symbol := ⟨0, .neutral, false⟩
/-- CR (neutral). -/
abbrev symCr : Symbol := ⟨1, .neutral, false⟩
/-- LF (neutral). -/
abbrev symLf : Symbol := ⟨2, .neutral, false⟩
/-- SPACE (neutral). -/
abbrev symSpace : Symbol := ⟨16, .neutral, false⟩
/-- FIGURES (neutral). -/
abbrev symFigures : Symbol := ⟨30, .neutral, false⟩
/-- LETTERS (neutral). -/
abbrev symLetters : Symbol := ⟨31, .neutral, false⟩
/-- WRU (figures). -/
abbrev symWru : Symbol := ⟨6, .figures, false⟩
/-- BELL (figures). -/
abbrev symBell : Symbol := ⟨12, .figures, false⟩

/-- Positions 0 to 25 of the built-in map hold the letters of these codes in plane 0 and the figures of the same codes in
plane 1 (R51, drives 0 to 3): Q W E R T Y U I, O P A S D F G H, J K L Z X C V B, N M. -/
def letterKeys : List (BitVec 5) :=
  [20, 26, 7, 21, 23, 28, 24, 11, 18, 19, 3, 22, 6, 8, 9, 10, 12, 13, 14, 29, 27, 5, 25, 4, 17, 15]

/-- Positions 26 to 63 of the built-in map, alike in both planes (R51). -/
def commonKeys : List Assignment :=
  [.symbol symSpace, .symbol symCr, .symbol symLf, .symbol symLetters, .symbol symFigures, .symbol symBlank,
   .shift, .shift, .function .hereIs, .function .wru, .function .breakIn, .function .lineLocal, .function .send, .none,
   .function (.report 1), .function (.report 2), .function (.report 3), .function (.report 4),
   .function (.report 5), .function (.report 6), .function (.report 7), .function (.report 8)]
  ++ List.replicate 16 .none

/-- Plane 0 of the built-in map (R51). -/
def builtInPlane0 : List Assignment := letterKeys.map (fun c => .symbol (letter c)) ++ commonKeys

/-- Plane 1 of the built-in map (R51). -/
def builtInPlane1 : List Assignment := letterKeys.map (fun c => .symbol (figure c)) ++ commonKeys

end Sys2Proof.Machine
end

