-- ==== Sys2Proof/Machine/Symbols.lean ====
section
/-! DEFINITION. Symbols: well-formedness, kinds, the byte form, the check of R5, and the case rule that turns a symbol back
into codes (chapter 1). -/

namespace Sys2Proof.Machine

/-- The six neutral codes (R3). -/
def neutralCode (c : BitVec 5) : Bool := c == 0 || c == 1 || c == 2 || c == 16 || c == 30 || c == 31

/-- A clear mark, and code and class that agree (R4). -/
def Symbol.wellFormed (y : Symbol) : Bool :=
  !y.mutilated && (match y.cls with
    | .neutral => neutralCode y.code
    | .letters => !neutralCode y.code
    | .figures => !neutralCode y.code)

/-- A symbol as R4 allows it inside the part: well formed, or mutilated in class L or F. -/
def Symbol.legal (y : Symbol) : Bool := y.wellFormed || (y.mutilated && y.cls != .neutral)

/-- The kind of a symbol: the first line of R6 that fits. -/
def Symbol.kind (y : Symbol) : Kind :=
  if y.mutilated then .mutilated
  else if y.code = 30 ∨ y.code = 31 then .explicitShift
  else if y.code = 0 then .blank
  else if y.code = 1 then .cr
  else if y.code = 2 then .lf
  else if y.code = 16 then .space
  else if y.code = 12 ∧ y.cls = .figures then .bell
  else if y.code = 6 ∧ y.cls = .figures then .wru
  else .printable

/-- The two class bits (R191). -/
def Cls.bits (c : Cls) : BitVec 2 :=
  match c with
  | .neutral => 0
  | .letters => 1
  | .figures => 2

/-- The class two bits name; the fourth value is not a class (R4, R191). -/
def Cls.ofBits (b : BitVec 2) : Option Cls :=
  if b = 0 then some .neutral else if b = 1 then some .letters else if b = 2 then some .figures else none

/-- A symbol's byte: mark, class, code (R191). -/
def Symbol.toByte (y : Symbol) : Byte := (BitVec.ofBool y.mutilated ++ y.cls.bits) ++ y.code

/-- The symbol a byte names, if its class bits are a class (R191). -/
def Symbol.ofByte? (b : Byte) : Option Symbol :=
  (Cls.ofBits (b.extractLsb' 5 2)).map fun c => ⟨b.extractLsb' 0 5, c, b.getLsbD 7⟩

/-- The class number n of N, L, F (for the free value of a fourth class). -/
def classOfNat (n : Nat) : Cls := if n = 0 then .neutral else if n = 1 then .letters else .figures

/-- How a stored byte reads: its symbol, or, where undetected wrong bits left the fourth class value, one whose class is a
free value (log entry 8). -/
def Symbol.ofByte (b : Byte) : Symbol :=
  match Symbol.ofByte? b with
  | some y => y
  | none => ⟨b.extractLsb' 0 5, classOfNat (Config.fourthClass b), b.getLsbD 7⟩

/-- The check of R5 on a symbol byte from a port: the symbol, or none where the command is refused. -/
def checkSymbol (b : Byte) : Option Symbol :=
  match Symbol.ofByte? b with
  | some y => if y.wellFormed then some y else none
  | none => none

/-- The check of R5 on every symbol of a command: all of them, or none. -/
def checkSymbols : List Byte → Option (List Symbol)
  | [] => some []
  | b :: bs =>
    match checkSymbol b, checkSymbols bs with
    | some y, some ys => some (y :: ys)
    | _, _ => none

/-- What R12 emits for a symbol under a tracker: whether it is an inserted shift, and the code. -/
def emission (tracker : Case3) (y : Symbol) : Bool × BitVec 5 :=
  if y.mutilated then (false, 31)
  else match y.cls with
    | .neutral => (false, y.code)
    | .letters => if tracker = .letters then (false, y.code) else (true, 31)
    | .figures => if tracker = .figures then (false, y.code) else (true, 30)

/-- The tracker after a code is emitted (R7, R9, R15): code 31 and code 30 leave only as shifts, erase or LETTERS, and code
16 only as SPACE; usos is TX-USOS, off at the punch. -/
def caseAfter (usos : Bool) (tracker : Case3) (code : BitVec 5) : Case3 :=
  if code = 31 then .letters
  else if code = 30 then .figures
  else if code = 16 ∧ usos = true then .letters
  else tracker

/-- The SENT symbol of a character (R16): an inserted shift and a mutilated symbol are delivered as the explicit shift of
the code sent, every other character as the symbol it came from. -/
def sentSymbol (inserted : Bool) (code : BitVec 5) (y : Symbol) : Symbol :=
  if inserted ∨ y.mutilated = true then neutral code else y

/-- The received symbol and RX case after it (R10, R11). -/
def classify (rx : Case2) (usos : Bool) (code : BitVec 5) (stopMark : Bool) : Symbol × Case2 :=
  let cls : Cls := match rx with
    | .letters => .letters
    | .figures => .figures
  if !stopMark then (⟨code, cls, true⟩, rx)
  else if code = 30 then (symFigures, .figures)
  else if code = 31 then (symLetters, .letters)
  else if code = 16 then (symSpace, if usos then .letters else rx)
  else if neutralCode code then (neutral code, rx)
  else (⟨code, cls, false⟩, rx)

/-- The code of five units, unit 1 the least significant (R1). -/
def codeOfUnits (units : List Bool) : BitVec 5 :=
  BitVec.ofNat 5 (units.foldr (fun u acc => u.toNat + 2 * acc) 0)

/-- Symbols of a DAMAGED block: code 0, class L, mark set, as many as its fill (R82). -/
def damagedSymbol : Symbol := ⟨0, .letters, true⟩

/-- Whether a pattern position matches a symbol (R74). -/
def PatPos.fits (q : PatPos) (y : Symbol) : Bool :=
  match q with
  | .dontCare => true
  | .symbol z => !y.mutilated && y.code == z.code && y.cls == z.cls

/-- The pattern compare unit (R73): the first k symbols of the run against the k positions. -/
def patternMatches : List PatPos → List Symbol → Bool
  | [], _ => true
  | _ :: _, [] => false
  | q :: qs, y :: ys => q.fits y && patternMatches qs ys

end Sys2Proof.Machine
end

