-- ==== Sys2Proof/Machine/Operands.lean ====
section
/-! DEFINITION. The wire forms of chapter 12: numbers, named values, sets, patterns and key assignments of a request, and the
index of each named value in an answer (R190 to R194). -/

namespace Sys2Proof.Machine

/-! ## Numbers (R192) -/

/-- One byte of a number 0 to 255. -/
def byteOf (n : Nat) : Byte := BitVec.ofNat 8 n

/-- Two bytes, most significant first. -/
def halfOf (n : Nat) : List Byte := [byteOf (n / 256), byteOf n]

/-- Four bytes of a seconds value, most significant first. -/
def wordOf (w : Word) : List Byte :=
  [w.extractLsb' 24 8, w.extractLsb' 16 8, w.extractLsb' 8 8, w.extractLsb' 0 8]

/-- On 1, off 0 (R192). Set and yes read 1 too, clear and no 0, as R191 and R193 give it for the mutilated mark and the identity
markers; for the other marks the manual does not say so (log entry 50). -/
def boolOf (b : Bool) : Byte := if b then 1 else 0

/-- How an absent one-byte field of a result reads. -/
def absent : Byte := 0xFF

/-- A one-byte field that may be absent. -/
def optByte (o : Option Nat) : Byte := match o with
  | some n => byteOf n
  | none => absent

/-- A run preceded by its count byte. -/
def runOf (bs : List Byte) : List Byte := byteOf bs.length :: bs

/-- On or off from a byte; any other number is beyond the list (R192). -/
def onOff (b : Byte) : Option Bool := if b = 0 then some false else if b = 1 then some true else none

/-- Whether bit n of a presence byte marks setting n as present (R192). -/
def present (presence : Byte) (n : Nat) : Bool := presence.getLsbD n

/-- A value clamped to a range (chapter "Terms": clamp). -/
def clamp (lo hi n : Nat) : Nat := max lo (min hi n)

/-- A count raised by one, saturating at 65535. -/
def bump (n : Nat) : Nat := min Config.countMax (n + 1)

/-! ## Sinks (R192) -/

/-- A sink set's byte: bit 0 TRANSMITTER, 1 PRINTER, 2 PUNCH, 3 STORE. -/
def SinkSet.toByte (k : SinkSet) : Byte :=
  boolOf k.transmitter + 2 * boolOf k.printer + 4 * boolOf k.punch + 8 * boolOf k.store

/-- The set of the four low bits of a byte. -/
def SinkSet.ofByte (b : Byte) : SinkSet := ⟨b.getLsbD 0, b.getLsbD 1, b.getLsbD 2, b.getLsbD 3⟩

/-- Whether a mask names nothing but the four sinks (R64). -/
def fourSinks (b : Byte) : Bool := b.toNat < 16

/-- Union, difference and exchange of two sets, sink by sink (R64). -/
def SinkSet.union (a b : SinkSet) : SinkSet :=
  ⟨a.transmitter || b.transmitter, a.printer || b.printer, a.punch || b.punch, a.store || b.store⟩

/-- The first set without the sinks of the second (R64, REMOVE). -/
def SinkSet.diff (a b : SinkSet) : SinkSet :=
  ⟨a.transmitter && !b.transmitter, a.printer && !b.printer, a.punch && !b.punch, a.store && !b.store⟩

/-- Each sink of the second set removed from the first if there, added if not (R64, TOGGLE). -/
def SinkSet.toggle (a b : SinkSet) : SinkSet :=
  ⟨a.transmitter ^^ b.transmitter, a.printer ^^ b.printer, a.punch ^^ b.punch, a.store ^^ b.store⟩

/-- The first set holds every sink of the second. -/
def SinkSet.contains (a b : SinkSet) : Bool :=
  (a.transmitter || !b.transmitter) && (a.printer || !b.printer) && (a.punch || !b.punch) && (a.store || !b.store)

/-! ## Patterns and key assignments (R191, R192) -/

/-- A position of a trigger pattern or an expected identity: 0x7F is DON'T-CARE, any other byte passes the check of R5 and is
neither an explicit shift nor BLANK (R75, R99, R191). -/
def checkPosition (b : Byte) : Option PatPos :=
  if b = 0x7F then some .dontCare
  else match checkSymbol b with
    | some y => if y.kind = .explicitShift ∨ y.kind = .blank then none else some (.symbol y)
    | none => none

/-- Every position of a pattern, or none. -/
def checkPattern : List Byte → Option (List PatPos)
  | [] => some []
  | b :: bs =>
    match checkPosition b, checkPattern bs with
    | some q, some qs => some (q :: qs)
    | _, _ => none

/-- The byte of a pattern position (R191). -/
def PatPos.toByte (q : PatPos) : Byte := match q with
  | .symbol y => y.toByte
  | .dontCare => 0x7F

/-- The function a value byte names (R192): REPORT n as 4 + n, n from 1 to 8. -/
def functionOf (v : Byte) : Option Function :=
  if v = 0 then some .hereIs
  else if v = 1 then some .wru
  else if v = 2 then some .breakIn
  else if v = 3 then some .lineLocal
  else if v = 4 then some .send
  else if 5 ≤ v.toNat ∧ v.toNat ≤ 12 then some (.report (v.toNat - 4))
  else none

/-- A LOAD KEYMAP assignment: type and value (R192, R50). -/
def checkAssignment (e : Byte × Byte) : Option Assignment :=
  if e.1 = 0 then some .none
  else if e.1 = 1 then (checkSymbol e.2).map .symbol
  else if e.1 = 2 then some .shift
  else if e.1 = 3 then (functionOf e.2).map .function
  else none

/-- Every assignment of a LOAD KEYMAP, or none. -/
def checkAssignments : List (Byte × Byte) → Option (List Assignment)
  | [] => some []
  | e :: es =>
    match checkAssignment e, checkAssignments es with
    | some a, some as => some (a :: as)
    | _, _ => none

/-! ## Named values: the index in the list of the owning rule (R192) -/

def RxState.index : RxState → Nat
  | .off => 0
  | .hunting => 1
  | .starting => 2
  | .assembling => 3
  | .spacingHold => 4

def Requester.index : Requester → Nat
  | .keyboard => 0
  | .chan .ch0 => 1
  | .chan .ch1 => 2
  | .control => 3

def AbState.index : AbState → Nat
  | .none => 0
  | .pending => 1
  | .sending => 2

def chanIndex : Chan → Nat
  | .ch0 => 0
  | .ch1 => 1

/-- The channel a byte names (R109). -/
def chanOf (b : Byte) : Option Chan := if b = 0 then some .ch0 else if b = 1 then some .ch1 else none

def KbMode.index : KbMode → Nat
  | .line => 0
  | .loc => 1

def TriggerAction.index : TriggerAction → Nat
  | .endMessage => 0
  | .clearRequest => 1
  | .openGate => 2
  | .shutGate => 3
  | .sendHeld => 4
  | .report => 5

/-- The action a byte names (R75). -/
def triggerActionOf (b : Byte) : Option TriggerAction :=
  match b.toNat with
  | 0 => some .endMessage
  | 1 => some .clearRequest
  | 2 => some .openGate
  | 3 => some .shutGate
  | 4 => some .sendHeld
  | 5 => some .report
  | _ => none

def Holder.index : Holder → Nat
  | .line => 0
  | .keyboard => 1
  | .port .s => 2
  | .port .x => 3

def MsgKind.index : MsgKind → Nat
  | .received => 0
  | .prepared => 1

def MsgState.index : MsgState → Nat
  | .opened => 0
  | .closed => 1
  | .incomplete => 2

def Delivery.index : Delivery → Nat
  | .none => 0
  | .ready => 1
  | .sending => 2
  | .sent => 3
  | .failed => 4
  | .held => 5
  | .collected => 6

/-- The delivery option a byte names (R99): NONE, READY, HELD. -/
def deliveryOptionOf (b : Byte) : Option Delivery :=
  if b = 0 then some .none else if b = 1 then some .ready else if b = 2 then some .held else none

def Reader.index : Reader → Nat
  | .readText => 0
  | .channel => 1
  | .scrubber => 2
  | .append => 3

def ChTrigger.index : ChTrigger → Nat
  | .now => 0
  | .sendKey => 1
  | .callOut => 2

/-- The trigger a byte names (R109). -/
def chTriggerOf (b : Byte) : Option ChTrigger :=
  if b = 0 then some .now else if b = 1 then some .sendKey else if b = 2 then some .callOut else none

def Starter.index : Starter → Nat
  | .port .s => 0
  | .port .x => 1
  | .sequencer => 2

def HoldReason.index : HoldReason → Nat
  | .lineBreak => 0
  | .key => 1
  | .callEnd => 2
  | .command => 3
  | .sink => 4

/-- The index of a channel's state, IDLE for none (R108). -/
def chanStateIndex (w : Option ChanWork) : Nat :=
  match w with
  | none => 0
  | some k => match k.phase with
    | .pending => 1
    | .running => 2
    | .waiting => 3
    | .held _ => 4

def PrEngine.index : PrEngine → Nat
  | .idle => 0
  | .busy => 1
  | .stopped => 2
  | .fault => 3

def EolMode.index : EolMode → Nat
  | .hold => 0
  | .wrap => 1

def FollowOn.index : FollowOn → Nat
  | .none => 0
  | .lf => 1
  | .crLf => 2

def PuEngine.index : PuEngine → Nat
  | .idle => 0
  | .busy => 1
  | .tapeOut => 2
  | .off => 3

def OffCause.index : OffCause → Nat
  | .switch => 0
  | .command => 1

/-- The kind of an identity operation (R193). -/
def IdOp.kindIndex : IdOp → Nat
  | .program _ _ _ => 0
  | .commit _ _ _ _ => 1
  | .protect => 2
  | .protectedFail _ _ => 3

/-- The slot of an identity operation, none for PROTECT (R193). -/
def IdOp.slot? : IdOp → Option Nat
  | .program n _ _ => some n
  | .commit n _ _ _ => some n
  | .protect => none
  | .protectedFail _ n => some n

def CallState.index : CallState → Nat
  | .idle => 0
  | .incoming => 1
  | .outgoing => 2
  | .clearing => 3

def AnsMode.index : AnsMode → Nat
  | .attended => 0
  | .unattended => 1

def CallPhase.index : CallPhase → Nat
  | .settle => 0
  | .capture => 1
  | .traffic => 2
  | .autoSend => 3
  | .collection => 4

def CapStatus.index : CapStatus → Nat
  | .none => 0
  | .captured => 1
  | .timeout => 2

/-- The step of R165 a step of the model stands for: WRU, CAPTURE, HEADER, BODY, TRAILER. -/
def AutoStep.index : AutoStep → Nat
  | .wru => 0
  | .capture => 1
  | .headerAnswer => 2
  | .headerCr => 2
  | .headerLf => 2
  | .body => 3
  | .trailerCr => 4
  | .trailerLf => 4
  | .trailerAnswer => 4

def ClearCause.index : ClearCause → Nat
  | .trigger => 0
  | .mutilation => 1
  | .idle => 2
  | .autoSend => 3

/-- Log entry 16: IDENT, then the causes in the order of R179's table. -/
def AutoCause.index : AutoCause → Nat
  | .ident => 0
  | .channel => 1
  | .aborted => 2
  | .held => 3
  | .stopped => 4
  | .cleared => 5

/-- Log entry 16. -/
def CallCause.index : CallCause → Nat
  | .callIn => 0
  | .callOut => 1
  | .callCleared => 2
  | .self => 3

/-- Log entry 16. -/
def SelfCause.index : SelfCause → Nat
  | .clearing => 0
  | .breakIn => 1

def ResetCause.index : ResetCause → Nat
  | .pin => 0
  | .port .s => 1
  | .port .x => 2

/-- Log entry 16. -/
def FullCause.index : FullCause → Nat
  | .directory => 0
  | .blocks => 1

def IdKind.index : IdKind → Nat
  | .program => 0
  | .commit => 1
  | .protect => 2

/-- Log entry 16. -/
def IdReason.index : IdReason → Nat
  | .verify => 0
  | .protectedStore => 1

/-! ## Events (R194) -/

/-- The kind of an event (R194). -/
def Event.kind : Event → Nat
  | .restarted _ => 0x00
  | .lineRate _ => 0x01
  | .breakDetected => 0x02
  | .distortion _ => 0x03
  | .wruAnswered _ _ _ => 0x04
  | .keyboardMode _ => 0x05
  | .keyBreak => 0x06
  | .key _ => 0x07
  | .trigger _ => 0x08
  | .messageOpened _ => 0x09
  | .messageClosed _ _ => 0x0A
  | .messageDeleted _ => 0x0B
  | .storeFull _ _ => 0x0C
  | .storeDamaged _ _ _ => 0x0D
  | .channelDone _ _ => 0x0E
  | .channelAborted _ _ _ => 0x0F
  | .channelHeld _ _ _ _ => 0x10
  | .channelStopped _ _ _ => 0x11
  | .printerStopped => 0x12
  | .printerReady => 0x13
  | .printerFault => 0x14
  | .formatLoaded => 0x15
  | .punchTapeLow _ => 0x16
  | .punchTapeOut => 0x17
  | .punchReady => 0x18
  | .punchOff _ => 0x19
  | .identityDone _ _ _ => 0x1A
  | .identityFail _ _ _ _ => 0x1B
  | .identityCorrected _ => 0x1C
  | .identityBad _ => 0x1D
  | .call _ _ => 0x1E
  | .capture _ _ _ => 0x1F
  | .clearRequested _ => 0x20
  | .idleTimeout => 0x21
  | .selfCleared _ => 0x22
  | .collectionSkipped _ => 0x23
  | .collectionDone _ _ => 0x24
  | .autoSendDone _ => 0x25
  | .autoSendFailed _ _ => 0x26
  | .owedPrinted _ => 0x27

/-- The byte of an item an event may carry or not: nothing where it does not. -/
def optItem (o : Option Nat) : List Byte := match o with
  | some n => [byteOf n]
  | none => []

/-- The items named in the event's parentheses, in that order (R194). -/
def Event.items : Event → List Byte
  | .restarted c => [byteOf c.index]
  | .lineRate r => [byteOf r]
  | .breakDetected => []
  | .distortion p => [byteOf p]
  | .wruAnswered n a m => [byteOf n, byteOf a, boolOf m]
  | .keyboardMode m => [byteOf m.index]
  | .keyBreak => []
  | .key n => [byteOf n]
  | .trigger n => [byteOf n]
  | .messageOpened n => halfOf n
  | .messageClosed n t => halfOf n ++ [byteOf t.index]
  | .messageDeleted n => halfOf n
  | .storeFull n c => halfOf n ++ [byteOf c.index]
  | .storeDamaged n j r => halfOf n ++ halfOf j ++ [byteOf r.index]
  | .channelDone c n => byteOf (chanIndex c) :: halfOf n
  | .channelAborted c n q => byteOf (chanIndex c) :: (halfOf n ++ halfOf q ++ [0])
  | .channelHeld c n q r => byteOf (chanIndex c) :: (halfOf n ++ halfOf q ++ [byteOf r.index])
  | .channelStopped c n q => byteOf (chanIndex c) :: (halfOf n ++ halfOf q)
  | .printerStopped => [0]
  | .printerReady => []
  | .printerFault => []
  | .formatLoaded => []
  | .punchTapeLow n => halfOf n
  | .punchTapeOut => []
  | .punchReady => []
  | .punchOff c => [byteOf c.index]
  | .identityDone k n l => byteOf k.index :: (optItem n ++ optItem l)
  | .identityFail k n r l => byteOf k.index :: (optItem n ++ [byteOf r.index] ++ optItem l)
  | .identityCorrected n => [byteOf n]
  | .identityBad n => [byteOf n]
  | .call t c => [byteOf t.index, byteOf c.index]
  | .capture t n ys => [byteOf t.index, byteOf n] ++ (ys.take 4).map Symbol.toByte
  | .clearRequested c => [byteOf c.index]
  | .idleTimeout => []
  | .selfCleared c => [byteOf c.index]
  | .collectionSkipped n => halfOf n
  | .collectionDone a b => [byteOf a, byteOf b]
  | .autoSendDone n => halfOf n
  | .autoSendFailed n c => halfOf n ++ [byteOf c.index]
  | .owedPrinted n => halfOf n

/-- The seven bytes of an event queue entry: kind, then six detail bytes, unused ones 0 (R194). -/
def Event.bytes (e : Event) : List Byte := byteOf e.kind :: ((e.items ++ List.replicate 6 0).take 6)

/-! ## Answers (R190) -/

def Status.byte : Status → Byte
  | .done => 0x00
  | .started => 0x01
  | .damaged => 0x02
  | .refused => 0x03

def Reason.byte : Reason → Byte
  | .format => 0x01
  | .range => 0x02
  | .busy => 0x03
  | .state => 0x04
  | .noSuch => 0x05
  | .full => 0x06
  | .notHolder => 0x07
  | .locked => 0x08
  | .order => 0x09
  | .count => 0x0A

/-- The bytes of an answer without filler: code, status, reason, count, result (R190). -/
def Answer.bytes (a : Answer) : List Byte :=
  a.code :: a.status.byte :: (match a.reason with | some r => r.byte | none => 0) :: runOf a.result

/-- How a response holder is clocked out; an empty one reads REFUSED FORMAT with code 0 (R183, R190). -/
def holderBytes (h : Option Answer) : List Byte := match h with
  | some a => a.bytes
  | none => [0x00, 0x03, 0x01, 0x00]

end Sys2Proof.Machine
end

