-- ==== Sys2Proof/Machine/State.lean ====
section
/-! DEFINITION. The state of the WZ-584: every register, queue, counter, mode, mark, timer and pin the manual gives the
part, block by block, and the queue of commands that wait. Plain data. -/

namespace Sys2Proof.Machine

/-- What stops the part: nothing. The manual gives every command and event an effect or an answer, so no constructor
exists and no claim can rest on one (INVENTORY.md, Faults). -/
inductive Fault where
deriving DecidableEq, Repr

/-- What the model refuses. -/
inductive Refusal where
  /-- Raised by exec for a command that has no meaning yet; safe: the model stops where the part goes on. -/
  | notModelled (mnemonic : String)
deriving DecidableEq, Repr

/-- The two input pins that no mark of a block follows: LINE IN (true: mark) and IDENTITY WRITE ENABLE (true: high). -/
structure Pins where
  lineMark : Bool
  writeEnable : Bool
deriving DecidableEq, Repr

/-- The Line Unit (chapter 2, R45). -/
structure LineUnit where
  rate : Nat
  pendingRate : Option Nat
  stopLen : Nat
  breakMs : Nat
  threshold : Nat
  txUsos : Bool
  rxUsos : Bool
  releaseTenths : Nat
  /-- The release interval when it runs, with the length it started with (R40). -/
  releaseRun : Option Nat
  rx : RxState
  maxDisp : Nat
  units : List Bool
  lastFall : Nat
  breakDeclared : Bool
  lastP : Nat
  peakP : Nat
  received : Nat
  overCount : Nat
  framingCount : Nat
  distReported : Bool
  txChar : Option TxChar
  txEnable : Bool
  holder : Option Requester
  requests : List Requester
  /-- The symbol CONTROL holds (R41). -/
  control : Option Symbol
  abState : AbState
  absorbed : Nat
  /-- What is left of the copy of the latch that is being sent (R162). -/
  abText : List Symbol
  abSent : Nat
  txCase : Case3
  rxCase : Case2
deriving DecidableEq, Repr

/-- The Keyboard Scanner (chapter 3, R60). -/
structure Keyboard where
  keys : List Key
  modifier : Bool
  confirmCount : Nat
  plane0 : List Assignment
  plane1 : List Assignment
  typeahead : List Symbol
  mode : KbMode
  portLock : Bool
  callLock : Bool
deriving DecidableEq, Repr

/-- The Distributor (chapter 4, R79). -/
structure Distributor where
  rowReceive : SinkSet
  rowSent : SinkSet
  rowLine : SinkSet
  rowLocal : SinkSet
  storeAdd : Bool
  gated : Bool
  gateOpen : Bool
  /-- Entries 0 to 3; none is an empty entry (R75). -/
  triggers : List (Option Trigger)
  history : List Symbol
deriving DecidableEq, Repr

/-- The Traffic Store (chapter 5, R106). -/
structure Store where
  /-- Block b, position p at address 32 b + p; what is not listed reads 0 (log entry 7). -/
  memory : List Host.Cell
  /-- Per block, the bits (8 position + bit; 256 and up: bits of the check code) at which code and data disagree; a block
  that is not listed has none (log entry 8). -/
  wrongBits : List (Nat × List Nat)
  free : List Nat
  retired : List Nat
  directory : List Record
  counter : Nat
  slotLine : Option Nat
  slotKeyboard : Option Nat
  slotS : Option Nat
  slotX : Option Nat
  corrected : Nat
  unstored : Nat
  unstoredMark : Bool
  scrubPos : Nat
  clock : Word
deriving DecidableEq, Repr

/-- The Page Printer (chapter 7, R140). -/
structure Printer where
  queue : List Symbol
  engine : PrEngine
  op : Option PrintOp
  followOn : FollowOn
  restart : Bool
  paperOut : Bool
  column : Nat
  active : Format
  pending : Format
  waiting : Bool
  bell : Bool
deriving DecidableEq, Repr

/-- The Tape Punch (chapter 8, R152). -/
structure Punch where
  queue : List Symbol
  engine : PuEngine
  /-- The rows of the operation in flight not yet complete, the one being punched first (R143). -/
  rows : List (BitVec 5)
  caseNow : Case3
  switchOff : Bool
  portOff : Bool
  firstOff : Option OffCause
  tapeLow : Bool
  counter : Option Nat
  allowance : Nat
  tapeOut : Bool
  rowsPunched : Nat
deriving DecidableEq, Repr

/-- The Identity Store (chapter 9). -/
structure Identity where
  slots : List IdSlot
  protect : Bool
  /-- The protect cell does not take a write (log entry 11). -/
  protectDead : Bool
  op : Option IdOp
  latch : Option Latch
  wruResponse : Bool
deriving DecidableEq, Repr

/-- The Call Sequencer: session record and answering configuration (R165, R166). Timers whose length is configured hold
the length they were started with. -/
structure Calls where
  state : CallState
  snapshot : Option AnsMode
  phase : Option CallPhase
  wruPending : Bool
  capturing : Bool
  captured : List Symbol
  status : CapStatus
  auto : Option AutoSend
  coll : Option Collection
  drain : Option Nat
  drainReq : Bool
  settleT : Option Nat
  captureStartT : Bool
  captureGapT : Bool
  idleT : Option Nat
  breakGuardT : Bool
  clearGuardT : Bool
  mode : AnsMode
  identify : Bool
  settle : Nat
  idle : Nat
  mutLimit : Nat
  attemptLimit : Nat
  autoDrain : Bool
deriving DecidableEq, Repr

/-- One command port (chapter 11, R189). -/
structure PortState where
  /-- The select pin is low (R182). -/
  selected : Bool
  /-- The transaction in progress (R182); none while select is high, and while it stays low after a reset has discarded one. -/
  transfer : Option Transfer
  /-- The response holder; none is an empty one (R183). -/
  holder : Option Answer
  queue : List Event
  mask : BitVec 48
  flags : Flags
deriving DecidableEq, Repr

/-- The whole part, and the queue of commands that wait. -/
structure State where
  pins : Pins
  line : LineUnit
  kb : Keyboard
  dist : Distributor
  store : Store
  ch0 : Option ChanWork
  ch1 : Option ChanWork
  printer : Printer
  punch : Punch
  ident : Identity
  calls : Calls
  sPort : PortState
  xPort : PortState
  /-- The model's own counter of free values drawn (log entry 14). -/
  freeCount : Nat
  /-- The commands that wait, the next one first. -/
  pending : List Instr
deriving DecidableEq, Repr

/-- The sink sets {PRINTER} and {TRANSMITTER} and the empty set (R63). -/
def SinkSet.justPrinter : SinkSet := ⟨false, true, false, false⟩
/-- The set of TRANSMITTER alone. -/
def SinkSet.justTransmitter : SinkSet := ⟨true, false, false, false⟩
/-- The empty set of sinks. -/
def SinkSet.empty : SinkSet := ⟨false, false, false, false⟩

/-- Line Unit state after reset for a line at mark or space (R45, R28). -/
def LineUnit.afterReset (lineMark : Bool) : LineUnit where
  rate := 1
  pendingRate := none
  stopLen := 96
  breakMs := 300
  threshold := 25
  txUsos := false
  rxUsos := false
  releaseTenths := 10
  releaseRun := none
  rx := if lineMark then .hunting else .spacingHold
  maxDisp := 0
  units := []
  lastFall := 0
  breakDeclared := false
  lastP := 0
  peakP := 0
  received := 0
  overCount := 0
  framingCount := 0
  distReported := false
  txChar := none
  txEnable := true
  holder := none
  requests := []
  control := none
  abState := .none
  absorbed := 0
  abText := []
  abSent := 0
  txCase := .unknown
  rxCase := .letters

/-- Keyboard Scanner state after reset (R60). -/
def Keyboard.afterReset : Keyboard where
  keys := List.replicate 64 ⟨false, 0⟩
  modifier := false
  confirmCount := 4
  plane0 := builtInPlane0
  plane1 := builtInPlane1
  typeahead := []
  mode := .line
  portLock := false
  callLock := false

/-- Distributor state after reset (R79). -/
def Distributor.afterReset : Distributor where
  rowReceive := .justPrinter
  rowSent := .justPrinter
  rowLine := .justTransmitter
  rowLocal := .justPrinter
  storeAdd := false
  gated := false
  gateOpen := false
  triggers := [none, none, none, none]
  history := []

/-- Traffic Store state after cold reset (R106). -/
def Store.afterCold : Store where
  memory := []
  wrongBits := []
  free := List.range 512
  retired := []
  directory := []
  counter := 1
  slotLine := none
  slotKeyboard := none
  slotS := none
  slotX := none
  corrected := 0
  unstored := 0
  unstoredMark := false
  scrubPos := 511
  clock := 0

/-- The format after reset (R128). -/
def Format.afterReset : Format := ⟨69, 0, 1, .hold, false⟩

/-- Page Printer state after reset, with the homing return in flight (R140, R141). -/
def Printer.afterReset (paperOut : Bool) : Printer where
  queue := []
  engine := .busy
  op := some (.carriageReturn .homing none none)
  followOn := .none
  restart := false
  paperOut := paperOut
  column := 0
  active := .afterReset
  pending := .afterReset
  waiting := false
  bell := false

/-- Tape Punch state after reset for the two pins (R152). -/
def Punch.afterReset (switchOff tapeLow : Bool) : Punch where
  queue := []
  engine := if switchOff then .off else .idle
  rows := []
  caseNow := .unknown
  switchOff := switchOff
  portOff := false
  firstOff := if switchOff then some .switch else none
  tapeLow := tapeLow
  counter := if tapeLow then some 500 else none
  allowance := 500
  tapeOut := false
  rowsPunched := 0

/-- A slot no cell of which has been written (R153). -/
def IdSlot.unwritten : IdSlot where
  positions := List.replicate 20 0xFF
  length := 0xFF
  count := [false, false, false, false]
  check := 0xFFFF
  marker := false
  wrongBits := []
  deadBits := []

/-- The Identity Store of a new part (log entry 10). -/
def Identity.factory : Identity where
  slots := List.replicate 8 .unwritten
  protect := false
  protectDead := false
  op := none
  latch := none
  wruResponse := true

/-- Call Sequencer state after reset (R181, R166). -/
def Calls.afterReset : Calls where
  state := .idle
  snapshot := none
  phase := none
  wruPending := false
  capturing := false
  captured := []
  status := .none
  auto := none
  coll := none
  drain := none
  drainReq := false
  settleT := none
  captureStartT := false
  captureGapT := false
  idleT := none
  breakGuardT := false
  clearGuardT := false
  mode := .attended
  identify := true
  settle := 2
  idle := 90
  mutLimit := 0
  attemptLimit := 3
  autoDrain := true

/-- No flag set (R188). -/
def Flags.clear : Flags := ⟨false, false, false, false, false, false, false⟩

/-- Every kind admitted: bits 0 to 39 (R187, R194). -/
def fullMask : BitVec 48 := 0x00FFFFFFFFFF

/-- Command port state after reset, before any event of the end of the reset, for the level of select (R182, R189). -/
def PortState.afterReset (selected : Bool) : PortState where
  selected := selected
  transfer := none
  holder := none
  queue := []
  mask := fullMask
  flags := .clear

/-- The part right after its first cold reset (R106 and the reset tables of the chapters), with the line at mark, paper
and tape present, the punch switch ON, IDENTITY WRITE ENABLE low and both selects high (log entry 13), and new identity cells (log entry 10). -/
def State.reset : State where
  pins := ⟨true, false⟩
  line := .afterReset true
  kb := .afterReset
  dist := .afterReset
  store := .afterCold
  ch0 := none
  ch1 := none
  printer := .afterReset false
  punch := .afterReset false false
  ident := .factory
  calls := .afterReset
  sPort := .afterReset false
  xPort := .afterReset false
  freeCount := 0
  pending := []

end Sys2Proof.Machine
end

