-- ==== Sys2Proof/Machine/Flags.lean ====
section
/-! DEFINITION. Condition flags, event masks and event queues of a port (R186, R187, R188). -/

namespace Sys2Proof.Machine

/-- A port's flags with one of the six shared flags set (R188). -/
def Flags.set (f : Flags) (g : Flag) : Flags :=
  match g with
  | .framingSeen => { f with framingSeen := true }
  | .distortionSeen => { f with distortionSeen := true }
  | .printLost => { f with printLost := true }
  | .punchLost => { f with punchLost := true }
  | .storeCorrected => { f with storeCorrected := true }
  | .storeUncorrectable => { f with storeUncorrectable := true }

/-- The flags byte of STATUS: bit 0 first, in the order of R188's table (R192, R193). -/
def Flags.toByte (f : Flags) : Byte :=
  boolOf f.framingSeen + 2 * boolOf f.distortionSeen + 4 * boolOf f.printLost + 8 * boolOf f.punchLost
    + 16 * boolOf f.storeCorrected + 32 * boolOf f.storeUncorrectable + 64 * boolOf f.eventsLost

/-- Whether a mask admits an event's kind (R186, R194). -/
def admits (mask : BitVec 48) (e : Event) : Bool := mask.getLsbD e.kind

/-- Entries an event queue can hold (R186). -/
abbrev eventQueueSize : Nat := 16

/-- A port after an event is posted: joined to the tail, dropped with EVENTS LOST, or not admitted (R186). -/
def PortState.receive (q : PortState) (e : Event) : PortState :=
  if admits q.mask e then
    if q.queue.length < eventQueueSize then { q with queue := q.queue ++ [e] }
    else { q with flags := { q.flags with eventsLost := true } }
  else q

/-- Whether a mask names a kind that the event code table does not give: bits 40 to 47 (R187, R194). -/
def maskNamesNoKind (mask : BitVec 48) : Bool := mask.extractLsb' 40 8 != 0

/-- The six mask bytes, byte 0 first (R194). -/
def maskBytes (mask : BitVec 48) : List Byte :=
  (List.range 6).map fun n => mask.extractLsb' (8 * n) 8

/-- The four flags of a record, packed in the order of R85 (R192). -/
def Record.flagsByte (r : Record) : Byte :=
  boolOf r.damaged + 2 * boolOf r.truncated + 4 * boolOf r.printOwed + 8 * boolOf r.punchOwed

end Sys2Proof.Machine
end

