-- ==== Sys2Proof/Machine/Memory.lean ====
section
/-! DEFINITION. The block memory as a list of (address, byte) pairs in one canonical form: addresses strictly rising, and no
byte listed that equals what an unlisted address reads as, which is 0 (R80, R106; log entry 7). -/

namespace Sys2Proof.Machine

/-- What an address that is not listed reads as (log entry 7). -/
abbrev memoryDefault : Byte := 0

/-- The byte at an address. -/
def Memory.read : List Host.Cell → Nat → Byte
  | [], _ => memoryDefault
  | (k, b) :: t, a => if k = a then b else Memory.read t a

/-- Memory with one byte written. -/
def Memory.write : List Host.Cell → Nat → Byte → List Host.Cell
  | [], a, b => if b = memoryDefault then [] else [(a, b)]
  | (k, c) :: t, a, b =>
    if a < k then (if b = memoryDefault then (k, c) :: t else (a, b) :: (k, c) :: t)
    else if a = k then (if b = memoryDefault then t else (a, b) :: t)
    else (k, c) :: Memory.write t a b

/-- Memory with a run of bytes written from an address up. -/
def Memory.writeRun : List Host.Cell → Nat → List Byte → List Host.Cell
  | m, _, [] => m
  | m, a, b :: bs => Memory.writeRun (Memory.write m a b) (a + 1) bs

/-- A run of n bytes from an address up. -/
def Memory.readRun (m : List Host.Cell) (a n : Nat) : List Byte := (List.range n).map fun i => Memory.read m (a + i)

/-- The canonical form, with every address at or above lo. -/
def Memory.wfFrom : Nat → List Host.Cell → Bool
  | _, [] => true
  | lo, (k, b) :: t => decide (lo ≤ k) && b != memoryDefault && Memory.wfFrom (k + 1) t

/-- The canonical form of a memory. -/
def Memory.wf (m : List Host.Cell) : Bool := Memory.wfFrom 0 m

end Sys2Proof.Machine
end

