-- ==== Sys2Proof/Machine/Ops.lean ====
section
/-! DEFINITION. The named operations over the state that every block shares: one setter per block, posting an event, setting a
condition flag, answering at a port, the transmit arbiter's list and grant, the bell, and drawing a free value. -/

namespace Sys2Proof.Machine

/-- What a command answers: on this part always a next state (INVENTORY.md, Faults). -/
abbrev Result := Host.Outcome State Fault Refusal

/-! ## One setter per part of the state -/

def State.setPins (s : State) (v : Pins) : State := { s with pins := v }
def State.setLine (s : State) (v : LineUnit) : State := { s with line := v }
def State.setKb (s : State) (v : Keyboard) : State := { s with kb := v }
def State.setDist (s : State) (v : Distributor) : State := { s with dist := v }
def State.setStore (s : State) (v : Store) : State := { s with store := v }
def State.setPrinter (s : State) (v : Printer) : State := { s with printer := v }
def State.setPunch (s : State) (v : Punch) : State := { s with punch := v }
def State.setIdent (s : State) (v : Identity) : State := { s with ident := v }
def State.setCalls (s : State) (v : Calls) : State := { s with calls := v }
def State.setFree (s : State) (n : Nat) : State := { s with freeCount := n }
def State.setPending (s : State) (q : List Instr) : State := { s with pending := q }

/-- The state of one port. -/
def State.port (s : State) (p : Port) : PortState := match p with
  | .s => s.sPort
  | .x => s.xPort

/-- The state with one port's changed. -/
def State.setPort (s : State) (p : Port) (v : PortState) : State := match p with
  | .s => { s with sPort := v }
  | .x => { s with xPort := v }

/-- The record of one channel, none while it is IDLE (R108). -/
def State.chan (s : State) (c : Chan) : Option ChanWork := match c with
  | .ch0 => s.ch0
  | .ch1 => s.ch1

/-- The state with one channel's record changed. -/
def State.setChan (s : State) (c : Chan) (w : Option ChanWork) : State := match c with
  | .ch0 => { s with ch0 := w }
  | .ch1 => { s with ch1 := w }

/-! ## Events, flags and answers -/

/-- An event is posted: copied into each port's queue that admits it (R186). -/
def post (e : Event) (s : State) : State :=
  { s with sPort := s.sPort.receive e, xPort := s.xPort.receive e }

/-- A list of events is posted in order. -/
def postAll : List Event → State → State
  | [], s => s
  | e :: es, s => postAll es (post e s)

/-- A condition flag is set in both ports (R188). -/
def setFlag (g : Flag) (s : State) : State :=
  { s with sPort := { s.sPort with flags := s.sPort.flags.set g },
           xPort := { s.xPort with flags := s.xPort.flags.set g } }

/-- An answer is placed in a port's response holder (R183). -/
def State.answer (s : State) (p : Port) (a : Answer) : State := s.setPort p { s.port p with holder := some a }

/-- DONE with result bytes (R184). -/
def State.done (s : State) (p : Port) (code : Byte) (result : List Byte) : State :=
  s.answer p ⟨code, .done, none, result⟩

/-- STARTED with result bytes (R184). -/
def State.begun (s : State) (p : Port) (code : Byte) (result : List Byte) : State :=
  s.answer p ⟨code, .started, none, result⟩

/-- The result bytes of a command refused with nothing accepted (R184): an APPEND TEXT carries its count of symbols accepted, 0, be it
refused by the store or FORMAT at the port (R94; log entry 42); no other command carries any. -/
def refusedBytes (code : Byte) : List Byte := if code = 0x31 then [0] else []

/-- REFUSED with a reason, and nothing accepted (R184). -/
def State.refuse (s : State) (p : Port) (code : Byte) (r : Reason) : State :=
  s.answer p ⟨code, .refused, some r, refusedBytes code⟩

/-! ## The transmit arbiter (R38, R39) -/

/-- The grant goes to the head of the list when there is no holder, transmit enable is ON and no rate change is pending
(R39). -/
def LineUnit.pass (l : LineUnit) : LineUnit :=
  if l.holder = none ∧ l.txEnable = true ∧ l.pendingRate = none then
    match l.requests with
    | r :: rs => { l with holder := some r, requests := rs }
    | [] => l
  else l

/-- A request: the requester joins the tail unless it is in the list or holds the grant (R38), and the grant is passed. -/
def LineUnit.request (l : LineUnit) (r : Requester) : LineUnit :=
  if l.holder = some r ∨ r ∈ l.requests then l
  else { l with requests := l.requests ++ [r] }.pass

/-- A withdrawal (R38). -/
def LineUnit.withdraw (l : LineUnit) (r : Requester) : LineUnit :=
  { l with requests := l.requests.filter (fun q => q ≠ r) }

/-- A release by the holder, after which the grant passes (R39, R40, R41). The release interval stops with KEYBOARD's grant. -/
def LineUnit.release (l : LineUnit) (r : Requester) : LineUnit :=
  if l.holder = some r then
    { l with holder := none, releaseRun := if r = Requester.keyboard then none else l.releaseRun }.pass
  else l

/-- A requester leaves the arbiter: it releases what it holds and withdraws where it stands in the list. -/
def LineUnit.leave (l : LineUnit) (r : Requester) : LineUnit := (l.withdraw r).release r

/-- A request to the arbiter. -/
def request (r : Requester) (s : State) : State := s.setLine (s.line.request r)

/-- A requester leaves the arbiter. -/
def leave (r : Requester) (s : State) : State := s.setLine (s.line.leave r)

/-! ## The bell (R134) -/

/-- A bell request: the pin is driven and the timer started afresh. -/
def ringBell (s : State) : State := s.setPrinter { s.printer with bell := true }

/-! ## Free values (log entry 14) -/

/-- The counter of free values advances. -/
def drawFree (s : State) : State := s.setFree (s.freeCount + 1)

end Sys2Proof.Machine
end

