-- ==== Sys2Proof/Machine/PrinterOps.lean ====
section
/-! DEFINITION. The print queue and engine (R126, R127), the column (R130), carriage returns (R131), follow-ons (R132) and the
format records (R128, R129). -/

namespace Sys2Proof.Machine

/-- Symbols the print queue holds at most (R126). -/
abbrev printQueueSize : Nat := 128

/-- What the printer answers to an offered symbol (R62, R126). -/
def Printer.offer (p : Printer) : Offer :=
  if p.engine = .fault then .permanent
  else if p.engine = .stopped ∨ printQueueSize ≤ p.queue.length then .forTime
  else .takes

/-- The idle engine takes the head of the queue: a symbol with an operation makes it BUSY, one without is acted on at once
and the next head is taken, and an empty queue leaves it IDLE (R127, R134). -/
def Printer.takeFrom : Printer → List Symbol → Printer
  | p, [] => { p with queue := [], engine := .idle, op := none }
  | p, y :: ys =>
    match y.kind with
    | .printable => { p with queue := ys, engine := .busy, op := some (.advance y) }
    | .mutilated => { p with queue := ys, engine := .busy, op := some (.advance y) }
    | .space => { p with queue := ys, engine := .busy, op := some (.advance y) }
    | .cr => { p with queue := ys, engine := .busy, op := some (.carriageReturn .queue (some p.column) none) }
    | .lf => { p with queue := ys, engine := .busy, op := some (.lineFeed p.active.spacing) }
    | .bell => Printer.takeFrom { p with bell := true } ys
    | .blank => Printer.takeFrom p ys
    | .explicitShift => Printer.takeFrom p ys
    | .wru => Printer.takeFrom p ys

/-- A symbol joins the tail of the queue, and an IDLE engine that owes no follow-on takes the head (R126, R127). -/
def Printer.accept (p : Printer) (y : Symbol) : Printer :=
  let q := { p with queue := p.queue ++ [y] }
  if q.engine = .idle ∧ q.followOn = .none then q.takeFrom q.queue else q

/-- The column after a glyph, a mutilation glyph or a SPACE, and the CR-LF that WRAP owes at the last column (R130). -/
def Printer.stepColumn (p : Printer) : Printer :=
  if p.column < p.active.lineLength - 1 then { p with column := p.column + 1 }
  else match p.active.mode with
    | .hold => p
    | .wrap => { p with followOn := .crLf }

/-- The engine begins the follow-on operation (R132). -/
def Printer.beginFollowOn (p : Printer) : Printer :=
  match p.followOn with
  | .none => p
  | .lf => { p with followOn := .none, engine := .busy, op := some (.lineFeed p.active.spacing) }
  | .crLf => { p with engine := .busy, op := some (.carriageReturn .wrap (some p.column) none) }

/-- What the engine does when an operation is complete: the follow-on, the stop for paper, the next symbol, or IDLE (R127).
The Bool says that it entered STOPPED. -/
def Printer.proceed (p : Printer) : Printer × Bool :=
  if p.followOn ≠ .none ∧ p.paperOut = false then (p.beginFollowOn, false)
  else if p.paperOut = true then ({ p with engine := .stopped, op := none }, true)
  else (p.takeFrom p.queue, false)

/-- A carriage return reaches home: its target format is fixed (R129, R131). -/
def Printer.fixTarget (p : Printer) : Printer :=
  match p.op with
  | some (.carriageReturn cause start none) =>
    let target : CrTarget := if p.waiting then ⟨p.pending, true, false⟩ else ⟨p.active, false, false⟩
    { p with op := some (.carriageReturn cause start (some target)) }
  | _ => p

/-- A carriage return completes: the column at the target margin, a pending target loaded, the line feed it owes (R129, R131,
R132; log entry 21). -/
def Printer.finishReturn (p : Printer) (cause : CrCause) (t : CrTarget) : Printer :=
  let q := { p with
    column := t.format.margin
    active := if t.fromPending then t.format else p.active
    waiting := if t.fromPending then (t.superseded && p.waiting) else p.waiting
    op := none }
  match cause with
  | .queue => if q.active.crAddsLf then { q with followOn := .lf } else q
  | .wrap => { q with followOn := .lf }
  | .restart => q
  | .homing => q

/-- The format a SET FORMAT forms from a base and the present fields, clamped (R128). -/
def formFormat (base : Format) (lineLength margin spacing : Option Nat) (mode : Option EolMode) (crAddsLf : Option Bool) :
    Format :=
  let len := match lineLength with
    | some n => clamp 20 132 n
    | none => base.lineLength
  let mar := match margin with
    | some n => clamp 0 30 n
    | none => base.margin
  { lineLength := len
    margin := min mar (len - 20)
    spacing := match spacing with
      | some n => clamp 1 2 n
      | none => base.spacing
    mode := mode.getD base.mode
    crAddsLf := crAddsLf.getD base.crAddsLf }

/-- Whether a SET FORMAT loads at once (R129). -/
def Printer.loadsAtOnce (p : Printer) : Bool :=
  p.engine = .idle ∧ p.queue = [] ∧ p.followOn = .none ∧ p.column = p.active.margin

/-- The record loads at once: the column at the new margin, and a margin move where it differs from the old one (R129). -/
def Printer.loadNow (p : Printer) (f : Format) : Printer :=
  let q := { p with active := f, pending := f, waiting := false, column := f.margin }
  if f.margin = p.active.margin then q
  else { q with engine := .busy, op := some (.marginMove (max f.margin p.active.margin - min f.margin p.active.margin)) }

/-- The record is stored as the pending record; a return whose pending target is already fixed keeps it (R128, R129; log
entry 21). -/
def Printer.storePending (p : Printer) (f : Format) : Printer :=
  { p with
    pending := f
    waiting := true
    op := match p.op with
      | some (.carriageReturn cause start (some t)) => some (.carriageReturn cause start (some { t with superseded := true }))
      | o => o }

/-- The five bytes of a format record (R128, R192). -/
def Format.bytes (f : Format) : List Byte :=
  [byteOf f.lineLength, byteOf f.margin, byteOf f.spacing, byteOf f.mode.index, boolOf f.crAddsLf]

end Sys2Proof.Machine
end

