-- ==== Sys2Proof/Machine/PunchOps.lean ====
section
/-! DEFINITION. The punch queue and engine (R142 to R144), tape supply (R145, R146) and the OFF state (R148). -/

namespace Sys2Proof.Machine

/-- Symbols the punch queue holds at most (R142). -/
abbrev punchQueueSize : Nat := 64

/-- What the punch answers to an offered symbol (R62, R142). -/
def Punch.offer (p : Punch) : Offer :=
  if p.engine = .off then .permanent
  else if p.engine = .tapeOut ∨ punchQueueSize ≤ p.queue.length then .forTime
  else .takes

/-- The rows of a symbol under punch case (R143). -/
def rowsOf (c : Case3) (y : Symbol) : List (BitVec 5) :=
  let e := emission c y
  if e.1 then [e.2, y.code] else [e.2]

/-- A row begins: punch case follows its code (R9). -/
def Punch.beginRow (p : Punch) : Punch :=
  match p.rows with
  | r :: _ => { p with caseNow := caseAfter false p.caseNow r }
  | [] => p

/-- The idle engine takes the head of the queue and forms its operation, or stays IDLE (R143). -/
def Punch.take (p : Punch) : Punch :=
  match p.queue with
  | [] => { p with engine := .idle, rows := [] }
  | y :: ys => { p with queue := ys, engine := .busy, rows := rowsOf p.caseNow y }.beginRow

/-- A symbol joins the tail, and an IDLE engine takes the head (R142, R143). -/
def Punch.accept (p : Punch) (y : Symbol) : Punch :=
  let q := { p with queue := p.queue ++ [y] }
  if q.engine = .idle then q.take else q

/-- The tape-out mark is set, and an IDLE engine enters TAPE-OUT (R145, R146). -/
def Punch.setTapeOut (p : Punch) : Punch :=
  { p with tapeOut := true, engine := if p.engine = .idle then .tapeOut else p.engine }

/-- The end of an operation: OFF, TAPE-OUT, the next symbol or IDLE (R144). The Option is the cause of PUNCH OFF where the
engine entered OFF (R148). -/
def Punch.endOperation (p : Punch) : Punch × Option OffCause :=
  if p.switchOff = true ∨ p.portOff = true then ({ p with engine := .off, rows := [] }, some (p.firstOff.getD .switch))
  else if p.tapeOut = true then ({ p with engine := .tapeOut, rows := [] }, none)
  else (p.take, none)

/-- A row is counted: rows punched rises, a running counter falls; the Bool says that the counter reached 0 (R143, R145). -/
def Punch.countRow (p : Punch) : Punch × Bool :=
  ({ p with rowsPunched := bump p.rowsPunched, counter := p.counter.map (· - 1) }, p.counter = some 1)

/-- An off mark becomes set; which was first is recorded (R148). The Option is the cause where the engine entered OFF. -/
def Punch.setOff (p : Punch) (cause : OffCause) : Punch × Option OffCause :=
  let first := p.firstOff.getD cause
  let q := match cause with
    | .switch => { p with switchOff := true, firstOff := some first }
    | .command => { p with portOff := true, firstOff := some first }
  if p.engine = .idle ∨ p.engine = .tapeOut then ({ q with engine := .off }, some first) else (q, none)

/-- An off mark is cleared; with neither set an engine in OFF leaves it (R148). The Bool says that it became IDLE, with PUNCH
READY. DESIGN CHOICE (log entry 53): of two marks set while BUSY, where the one set first is cleared before the engine enters OFF, the mark
that remains is the cause that PUNCH OFF names. -/
def Punch.clearOff (p : Punch) (cause : OffCause) : Punch × Bool :=
  let q := match cause with
    | .switch => { p with switchOff := false }
    | .command => { p with portOff := false }
  let q := { q with firstOff := if q.switchOff then some .switch else if q.portOff then some .command else none }
  if q.switchOff = false ∧ q.portOff = false ∧ q.engine = .off then
    if q.tapeOut then ({ q with engine := .tapeOut }, false) else ({ q with engine := .idle }.take, true)
  else (q, false)

/-- The engine state, the marks and the queue count of a punch response (R147, R148; log entry 18). -/
def Punch.report (p : Punch) : List Byte :=
  [byteOf p.engine.index, boolOf p.switchOff, boolOf p.portOff, boolOf p.tapeLow, boolOf p.tapeOut, byteOf p.queue.length]

end Sys2Proof.Machine
end

