-- ==== Sys2Proof/Machine/StoreOps.lean ====
section
/-! DEFINITION. The Traffic Store below its commands: records and numbers (R84, R85), open slots (R87), chains (R86), blocks and
their check codes (R80 to R82), the block-changed notice (R102, R113) and the record read-outs (R193). -/

namespace Sys2Proof.Machine

/-! ## Records, slots and numbers -/

/-- The record carrying a number, if any (R84). -/
def Store.find (t : Store) (n : Nat) : Option Record := t.directory.find? (fun r => r.number == n)

/-- The store with the records carrying a number changed. -/
def Store.update (t : Store) (n : Nat) (f : Record → Record) : Store :=
  { t with directory := t.directory.map (fun r => if r.number = n then f r else r) }

/-- The record carrying a number, if any. -/
def findMsg (n : Nat) (s : State) : Option Record := s.store.find n

/-- The state with the record carrying a number changed. -/
def updateMsg (n : Nat) (f : Record → Record) (s : State) : State := s.setStore (s.store.update n f)

/-- The length of a message: the sum of the fills (R86). -/
def Record.length (r : Record) : Nat := (r.chain.map (·.fill)).sum

/-- The open slot of a holder (R87). -/
def Store.slot (t : Store) (h : Holder) : Option Nat := match h with
  | .line => t.slotLine
  | .keyboard => t.slotKeyboard
  | .port .s => t.slotS
  | .port .x => t.slotX

/-- The store with a holder's open slot changed (R87). -/
def Store.setSlot (t : Store) (h : Holder) (v : Option Nat) : Store := match h with
  | .line => { t with slotLine := v }
  | .keyboard => { t with slotKeyboard := v }
  | .port .s => { t with slotS := v }
  | .port .x => { t with slotX := v }

/-- The value after n of the number counter, from 9999 to 1 (R84). -/
def nextNumber (n : Nat) : Nat := if 9999 ≤ n then 1 else n + 1

/-- From n, the first value that no record of d carries, looked for over a number of steps (R84). -/
def freeNumber : Nat → Nat → List Record → Nat
  | 0, n, _ => n
  | k + 1, n, d => if d.any (fun r => r.number == n) then freeNumber k (nextNumber n) d else n

/-- A record as it stands at its creation (R85). -/
def Record.fresh (n : Nat) (kind : MsgKind) (h : Holder) (clock : Word) : Record where
  number := n
  kind := kind
  state := .opened
  holder := some h
  damaged := false
  truncated := false
  printOwed := false
  punchOwed := false
  openedAt := clock
  closedAt := none
  worstP := 0
  overCount := 0
  mutilatedCount := 0
  remote := []
  expected := []
  destination := []
  delivery := .none
  attempts := 0
  readers := 0
  chain := []

/-- The number the next created message takes (R84). -/
def Store.nextFree (t : Store) : Nat := freeNumber t.directory.length t.counter t.directory

/-- A message is created: its record joins the end, its holder's slot is filled, the counter advances (R84, R87). -/
def Store.createMsg (t : Store) (kind : MsgKind) (h : Holder) : Store :=
  let n := t.nextFree
  { t with
    directory := t.directory ++ [Record.fresh n kind h t.clock]
    counter := nextNumber n }.setSlot h (some n)

/-- The reserve allows the creation of a PREPARED message (R89). -/
def Store.createAllowed (t : Store) : Bool := t.directory.length + Config.directoryReserve < Config.directorySize

/-- The reserve allows a message of a kind a new block, and there is one (R89, R88). -/
def Store.blockAllowed (t : Store) (kind : MsgKind) : Bool :=
  match kind with
  | .received => 0 < t.free.length
  | .prepared => Config.blockReserve < t.free.length

/-! ## Chains (R86) -/

/-- The chain index and the offset in its block of a position. -/
def locate : List ChainBlock → Nat → Option (Nat × Nat)
  | [], _ => none
  | b :: bs, n => if n < b.fill then some (0, n) else (locate bs (n - b.fill)).map fun q => (q.1 + 1, q.2)

/-- The pieces of a chain that hold `take` positions after the first `skip`: chain index, offset, count. -/
def spans : List ChainBlock → Nat → Nat → Nat → List (Nat × Nat × Nat)
  | [], _, _, _ => []
  | b :: bs, j, skip, take =>
    if take = 0 then []
    else if b.fill ≤ skip then spans bs (j + 1) (skip - b.fill) take
    else
      let n := min take (b.fill - skip)
      (j, skip, n) :: spans bs (j + 1) 0 (take - n)

/-- The last block of a chain that an append may still write into: IN USE with a fill below 32 (R88). -/
def openLast (chain : List ChainBlock) : Option ChainBlock :=
  match chain.getLast? with
  | some b => if b.damaged = false ∧ b.fill < Config.blockSize then some b else none
  | none => none

/-- An append to a message of that chain needs a new block (R88). -/
def needsBlock (chain : List ChainBlock) : Bool := (openLast chain).isNone

/-! ## Blocks and check codes (R80 to R82) -/

/-- The 32 bytes of a block as they stand. -/
def Store.blockBytes (t : Store) (b : Nat) : List Byte := Memory.readRun t.memory (Config.blockSize * b) Config.blockSize

/-- The bits of a block at which code and data disagree. -/
def Store.wrongOf (t : Store) (b : Nat) : List Nat :=
  match t.wrongBits.find? (fun e => e.1 == b) with
  | some e => e.2
  | none => []

/-- A block is written whole, with a fresh check code (R80). -/
def Store.writeBlock (t : Store) (b : Nat) (bytes : List Byte) : Store :=
  { t with
    memory := Memory.writeRun t.memory (Config.blockSize * b) (bytes ++ List.replicate (Config.blockSize - bytes.length) 0)
    wrongBits := t.wrongBits.filter (fun e => e.1 ≠ b) }

/-- What a check code makes of a list of wrong bits: none CLEAN, one CORRECTED, two UNCORRECTABLE; more is a free value (R81,
R161; log entry 8). -/
def verdictOf (many : List Nat → Config.Verdict) (bits : List Nat) : Config.Verdict :=
  match bits with
  | [] => .clean
  | [b] => .corrected b
  | [_, _] => .uncorrectable
  | more => many more

/-- Bit e of a run of bytes turned over; a bit beyond the run is one of the check code. -/
def flipBit (bytes : List Byte) (e : Nat) : List Byte :=
  bytes.modify (e / 8) (fun b => b ^^^ (1#8 <<< (e % 8)))

/-- A channel's copy after a write into block idx of message n: read again at once while RUNNING, marked invalid otherwise
(R102, R113). -/
def refreshCopy (n idx : Nat) (fresh : List Symbol) (w : ChanWork) : ChanWork :=
  if w.message = n then
    match w.copy with
    | some k =>
      if k.index = idx then
        { w with copy := some (if w.phase = .running then ⟨idx, fresh, true⟩ else { k with valid := false }) }
      else w
    | none => w
  else w

/-- The block-changed notice to every channel but the one that reads the block itself (R102, R112). -/
def blockChanged (n idx : Nat) (fresh : List Symbol) (self : Option Chan) (s : State) : State :=
  { s with ch0 := if self = some .ch0 then s.ch0 else s.ch0.map (refreshCopy n idx fresh)
           ch1 := if self = some .ch1 then s.ch1 else s.ch1.map (refreshCopy n idx fresh) }

/-- What a read of a block gives: the state after it, the symbols, and whether the block is DAMAGED after the read. -/
structure BlockRead where
  state : State
  symbols : List Symbol
  damaged : Bool

/-- Block idx of message n is read by a reader (R81, R82): CLEAN, CORRECTED with its write-back, or UNCORRECTABLE with its
marks and its event. -/
def readBlock (n idx : Nat) (who : Reader) (self : Option Chan) (s : State) : BlockRead :=
  match (findMsg n s).bind (fun r => r.chain[idx]?) with
  | none => ⟨s, [], false⟩
  | some b =>
    if b.damaged then ⟨s, List.replicate b.fill damagedSymbol, true⟩
    else
      let bytes := s.store.blockBytes b.block
      match verdictOf Config.blockVerdict (s.store.wrongOf b.block) with
      | .clean => ⟨s, bytes.map Symbol.ofByte, false⟩
      | .corrected e =>
        let good := flipBit bytes e
        let fresh := good.map Symbol.ofByte
        let t := { s.store.writeBlock b.block good with corrected := bump s.store.corrected }
        ⟨blockChanged n idx fresh self (setFlag .storeCorrected (s.setStore t)), fresh, false⟩
      | .uncorrectable =>
        let s1 := updateMsg n (fun r => { r with
          damaged := true
          chain := r.chain.modify idx (fun k => { k with damaged := true }) }) s
        ⟨post (.storeDamaged n idx who) (setFlag .storeUncorrectable s1), List.replicate b.fill damagedSymbol, true⟩

/-- The pieces of a message are read in turn (R97): the state, the symbols, and whether any came from a DAMAGED block. -/
def readSpans (n : Nat) : List (Nat × Nat × Nat) → State → State × List Symbol × Bool
  | [], s => (s, [], false)
  | (j, skip, take) :: rest, s =>
    let rd := readBlock n j .readText none s
    let more := readSpans n rest rd.state
    (more.1, (rd.symbols.drop skip).take take ++ more.2.1, rd.damaged || more.2.2)

/-- A block number joins the retired set, which is kept in rising order (R83). -/
def insertAsc (b : Nat) : List Nat → List Nat
  | [] => [b]
  | c :: cs => if b < c then b :: c :: cs else if b = c then c :: cs else c :: insertAsc b cs

/-- The blocks of a deleted message's chain are released in chain order: IN USE to the tail of the free queue, DAMAGED to the
retired set (R83). -/
def Store.releaseChain (t : Store) (chain : List ChainBlock) : Store :=
  { t with
    free := t.free ++ (chain.filter (fun b => !b.damaged)).map (·.block)
    retired := (chain.filter (·.damaged)).foldl (fun set b => insertAsc b.block set) t.retired }

/-- Where an IN USE block stands: its number, its message and its chain index. -/
def Store.inUse (t : Store) : List (Nat × Nat × Nat) :=
  t.directory.flatMap fun r =>
    (r.chain.zipIdx.filter (fun q => !q.1.damaged)).map fun q => (q.1.block, r.number, q.2)

/-- Of the entries of a list, one with the least first item. -/
def leastFirst : List (Nat × Nat × Nat) → Option (Nat × Nat × Nat)
  | [] => none
  | e :: es =>
    match leastFirst es with
    | none => some e
    | some f => if f.1 < e.1 then some f else some e

/-- The block the scrubber reads next: the first IN USE above its position, or else the first from 0 (R104). -/
def Store.nextScrub (t : Store) : Option (Nat × Nat × Nat) :=
  match leastFirst (t.inUse.filter (fun e => t.scrubPos < e.1)) with
  | some e => some e
  | none => leastFirst t.inUse

/-! ## Read-outs (R193) -/

/-- The message record as READ RECORD gives it (R98, R193). -/
def Record.bytes (r : Record) (index : Nat) : List Byte :=
  let received := r.kind == .received
  let prepared := r.kind == .prepared
  let presence := boolOf r.closedAt.isSome + 2 * boolOf r.holder.isSome + 4 * boolOf received + 8 * boolOf prepared
    + 16 * boolOf (r.remote != []) + 32 * boolOf (r.expected != []) + 64 * boolOf (r.destination != [])
  [presence] ++ halfOf r.number
    ++ [byteOf r.kind.index, byteOf r.state.index, optByte (r.holder.map Holder.index)]
    ++ halfOf r.length ++ [r.flagsByte] ++ wordOf r.openedAt ++ wordOf (r.closedAt.getD 0)
    ++ [if received then byteOf r.worstP else absent]
    ++ halfOf (if received then r.overCount else 0) ++ halfOf (if received then r.mutilatedCount else 0)
    ++ [if prepared then byteOf r.delivery.index else absent, if prepared then byteOf r.attempts else absent,
        byteOf r.readers, byteOf index]
    ++ halfOf r.chain.length ++ halfOf (r.chain.filter (·.damaged)).length
    ++ runOf (r.remote.map Symbol.toByte) ++ runOf (r.expected.map PatPos.toByte) ++ runOf (r.destination.map byteOf)

/-- The store summary (R98, R193). -/
def Store.summary (t : Store) : List Byte :=
  [byteOf t.directory.length, byteOf (Config.directorySize - t.directory.length)] ++ halfOf t.free.length
    ++ halfOf t.retired.length
    ++ halfOf ((t.directory.map fun r => (r.chain.filter (·.damaged)).length).sum)
    ++ halfOf t.corrected ++ halfOf t.unstored ++ halfOf t.counter ++ halfOf t.scrubPos ++ wordOf t.clock

end Sys2Proof.Machine
end

