-- ==== Sys2Proof/Machine/ChannelOps.lean ====
section
/-! DEFINITION. The transfer channels below the Call Sequencer (chapter 6): the read-ahead copy (R112), entering RUNNING (R111),
the end (R115), aborts (R117), holds (R120) and stops (R122). Each operation gives, beside the state, what a channel started by
the sequencer has to report to it. -/

namespace Sys2Proof.Machine

/-- A sink set holds PRINTER or PUNCH while that sink refuses permanently (R62, R69, R119). -/
def sinksPermanent (k : SinkSet) (s : State) : Bool :=
  (k.printer && s.printer.offer == .permanent) || (k.punch && s.punch.offer == .permanent)

/-- PRINTER and PUNCH, as far as a sink set holds them, can take a symbol (R62, R68). -/
def sinksReady (k : SinkSet) (s : State) : Bool :=
  (!k.printer || s.printer.offer == .takes) && (!k.punch || s.punch.offer == .takes)

/-- PRINTER and PUNCH, as far as a sink set holds them, take a symbol (R68). -/
def sinksTake (k : SinkSet) (y : Symbol) (s : State) : State :=
  let s1 := if k.printer then s.setPrinter (s.printer.accept y) else s
  if k.punch then s1.setPunch (s1.punch.accept y) else s1

/-- What a channel has to report: nothing unless the sequencer started it. -/
def reportOf (w : ChanWork) (r : Report) : Option Report := if w.starter = .sequencer then some r else none

/-- A channel enters IDLE: it leaves the arbiter and its message has one reader fewer (R115, R117, R122). -/
def chanToIdle (c : Chan) (w : ChanWork) (s : State) : State :=
  leave (.chan c) (updateMsg w.message (fun r => { r with readers := r.readers - 1 }) (s.setChan c none))

/-- A channel has reached the end of a message that is not OPEN (R115). -/
def chanDone (c : Chan) (w : ChanWork) (s : State) : State × Option Report :=
  (post (.channelDone c w.message) (chanToIdle c w s), reportOf w .done)

/-- A transmitting channel needs a DAMAGED block (R117). -/
def chanAbort (c : Chan) (w : ChanWork) (s : State) : State × Option Report :=
  let s1 := updateMsg w.message (fun r => { r with delivery := if r.delivery = .sending then .failed else r.delivery })
    (chanToIdle c w s)
  (post (.channelAborted c w.message w.position) s1, reportOf w .aborted)

/-- A hold of a channel that is PENDING, RUNNING or WAITING; any other is left as it stands (R120). -/
def holdChan (c : Chan) (reason : HoldReason) (s : State) : State × Option Report :=
  match s.chan c with
  | none => (s, none)
  | some w =>
    match w.phase with
    | .held _ => (s, none)
    | _ => (post (.channelHeld c w.message w.position reason)
        (leave (.chan c) (s.setChan c (some { w with phase := .held reason }))), reportOf w (.held reason))

/-- A stop of a channel that is not IDLE (R122). -/
def stopChan (c : Chan) (s : State) : State × Option Report :=
  match s.chan c with
  | none => (s, none)
  | some w => (post (.channelStopped c w.message w.position) (chanToIdle c w s), reportOf w .stopped)

/-- A channel's copy is valid and holds the block of chain index j. -/
def ChanWork.holds (w : ChanWork) (j : Nat) : Bool :=
  match w.copy with
  | some k => k.valid && k.index == j
  | none => false

/-- The symbol at a channel's position, from its valid copy (R114). -/
def chanSymbol (w : ChanWork) (s : State) : Option Symbol :=
  (findMsg w.message s).bind fun r =>
    (locate r.chain w.position).bind fun q =>
      if w.holds q.1 then w.copy.bind (fun k => k.symbols[q.2]?) else none

/-- A channel makes sure it holds a valid copy of the block of chain index j (R112); false where it has to abort (R117). A
channel without TRANSMITTER takes the mutilated symbols of a DAMAGED block instead (R118). -/
def ensureCopy (c : Chan) (w : ChanWork) (j : Nat) (s : State) : State × Bool :=
  if w.holds j then (s, true)
  else
    let rd := readBlock w.message j .channel (some c) s
    if rd.damaged && w.sinks.transmitter then (rd.state, false)
    else (rd.state.setChan c (some { w with copy := some ⟨j, rd.symbols, true⟩ }), true)

/-- A position at a message's length lies in no block: its chain is empty or its last block full (R112; log entry 46). -/
def noBlockAtEnd (chain : List ChainBlock) : Bool := match chain.getLast? with
  | none => true
  | some b => decide (Config.blockSize ≤ b.fill)

/-- A channel that has delivered every symbol of an OPEN message: WAITING, without a copy where no block holds its position (R112,
R115). -/
def ChanWork.waits (w : ChanWork) (chain : List ChainBlock) : ChanWork :=
  { w with phase := .waiting, copy := if noBlockAtEnd chain then none else w.copy }

/-- A channel goes on in RUNNING (R111, and R114 after a delivery): the end check, the copy, the grant request, and its symbol
offered, which a permanent refusal turns into a hold (R119). -/
def proceedChan (c : Chan) (s : State) : State × Option Report :=
  match s.chan c with
  | none => (s, none)
  | some w0 =>
    let w := { w0 with phase := .running }
    let s0 := s.setChan c (some w)
    match findMsg w.message s with
    | none => (s0, none)
    | some r =>
      match locate r.chain w.position with
      | none =>
        if r.state = .opened then
          (s0.setLine (s0.line.withdraw (.chan c)) |>.setChan c (some (w.waits r.chain)), none)
        else chanDone c w s0
      | some q =>
        let e := ensureCopy c w q.1 s0
        if e.2 then
          let s1 := if w.sinks.transmitter then request (.chan c) e.1 else e.1
          if sinksPermanent w.sinks s1 then holdChan c .sink s1 else (s1, none)
        else chanAbort c w e.1

/-- The record a start makes (R109), and the start itself: readers rise, and with NOW the channel goes on into RUNNING. -/
def startChan (c : Chan) (n position : Nat) (sinks : SinkSet) (trigger : ChTrigger) (starter : Starter) (s : State) :
    State × Option Report :=
  let w : ChanWork := ⟨.pending, n, position, sinks, trigger, trigger = .now, starter, none⟩
  let s1 := updateMsg n (fun r => { r with readers := r.readers + 1 }) (s.setChan c (some w))
  if trigger = .now then proceedChan c s1 else (s1, none)

/-- The trigger of a PENDING channel occurs (R110). -/
def triggerChan (c : Chan) (t : ChTrigger) (s : State) : State × Option Report :=
  match s.chan c with
  | none => (s, none)
  | some w =>
    if w.phase = .pending ∧ w.trigger = t then proceedChan c (s.setChan c (some { w with occurred := true }))
    else (s, none)

/-- The lowest-numbered IDLE channel (R176, R179). -/
def idleChan (s : State) : Option Chan :=
  if s.ch0 = none then some .ch0 else if s.ch1 = none then some .ch1 else none

/-- The grant byte of a channel's read-out (R193). -/
def grantByte (c : Chan) (s : State) : Byte :=
  if s.line.holder = some (.chan c) then 1 else if Requester.chan c ∈ s.line.requests then 2 else 0

/-- The channel record of R193 (log entry 17 for how absent fields read). -/
def chanBytes (c : Chan) (s : State) : List Byte :=
  match s.chan c with
  | none => [0, 0, 0, 0, 0, 0, absent, absent, absent, absent, absent, 0, 0, absent, grantByte c s, 0, 0]
  | some w =>
    let reason : Option Nat := match w.phase with
      | .held r => some r.index
      | _ => none
    let len := match findMsg w.message s with
      | some r => r.length
      | none => 0
    [1 + 2 * boolOf reason.isSome + 4 * boolOf w.copy.isSome, byteOf (chanStateIndex (some w))]
      ++ halfOf w.message ++ halfOf w.position
      ++ [w.sinks.toByte, byteOf w.trigger.index, boolOf w.occurred, byteOf w.starter.index, optByte reason]
      ++ (match w.copy with
        | some k => halfOf k.index ++ [boolOf k.valid]
        | none => [0, 0, absent])
      ++ [grantByte c s] ++ halfOf len

end Sys2Proof.Machine
end

