-- ==== Sys2Proof/Machine/SequencerOps.lean ====
section
/-! DEFINITION. The Call Sequencer below its commands (chapter 10): symbols handed to CONTROL, answer-back requests (R42),
captures (R170), clear requests (R172), automatic sending (R178, R179), collection (R175, R176), the drain (R180), and what it
does with what its channels report. None of these takes a character: the caller does that last. -/

namespace Sys2Proof.Machine

/-- The call is an unattended call (R165). -/
def unattended (s : State) : Bool :=
  s.calls.snapshot = some .unattended ∧ (s.calls.state = .incoming ∨ s.calls.state = .clearing)

/-- A symbol is handed to CONTROL, which requests the grant (R38, R41). -/
def handControl (y : Symbol) (s : State) : State := request .control (s.setLine { s.line with control := some y })

/-- WRU is handed to CONTROL and the WRU pending mark set (R169, R171, R177). -/
def wruAsk (s : State) : State := handControl symWru (s.setCalls { s.calls with wruPending := true })

/-- The idle timer is started afresh while the call state is INCOMING or OUTGOING (R173). -/
def restartIdle (s : State) : State :=
  if s.calls.state = .incoming ∨ s.calls.state = .outgoing then s.setCalls { s.calls with idleT := some s.calls.idle } else s

/-! ## The end of a capture, clear requests and answer-backs -/

/-- A capture ends (R170): marks, timers, status and event; the identification of an unattended call writes the remote
identity and makes the phase TRAFFIC. An automatic send's comparison is not made here. -/
def captureStop (s : State) : State :=
  let got := s.calls.captured
  let status : CapStatus := if got = [] then .timeout else .captured
  let s1 := post (.capture status got.length (got.take 4)) (s.setCalls { s.calls with
    capturing := false, captureStartT := false, captureGapT := false, status := status })
  if s1.calls.phase = some .capture then
    let s2 := s1.setCalls { s1.calls with phase := some .traffic }
    match s2.store.slotLine with
    | some n => if got = [] then s2 else updateMsg n (fun r => { r with remote := got }) s2
    | none => s2
  else s1

/-- The delivery an attempt leaves: FAILED as an abort set it, else by the attempt rule (R178, R179). -/
def attemptRule (limit : Nat) (cause : AutoCause) (r : Record) : Record :=
  if cause = .aborted then r else { r with delivery := if limit ≤ r.attempts then .failed else .ready }

/-- An attempt ends before DONE, without the clear request (R178, R179). -/
def autoFailCore (a : AutoSend) (cause : AutoCause) (s : State) : State :=
  let s1 := post (.autoSendFailed a.message cause) (updateMsg a.message (attemptRule s.calls.attemptLimit cause) s)
  s1.setCalls { s1.calls with auto := none, phase := some .traffic }

/-- The step of an automatic send is WRU, CAPTURE or HEADER. -/
def AutoStep.early (t : AutoStep) : Bool := t.index < 3

/-- The step of an automatic send is TRAILER. -/
def AutoStep.late (t : AutoStep) : Bool := t.index = 4

/-- What a clear request and a call's end make of an automatic send that has no channel (R168, R172, R179). -/
def autoCut (s : State) : State :=
  match s.calls.auto with
  | none => s
  | some a =>
    if a.step.early then autoFailCore a .cleared s
    else if a.step.late then s.setCalls { s.calls with auto := none, phase := some .traffic }
    else s

/-- A clear request (R172). -/
def clearRequest (cause : ClearCause) (s : State) : State :=
  if s.calls.state = .incoming ∨ s.calls.state = .outgoing then
    let s1 := post (.clearRequested cause) (s.setCalls { s.calls with
      state := .clearing, clearGuardT := true, settleT := none, idleT := none })
    autoCut (if s1.calls.capturing then captureStop s1 else s1)
  else s

/-- The sequencer hears WRU ANSWERED (R179). -/
def seqWruAnswered (s : State) : State :=
  match s.calls.auto with
  | none => s
  | some a =>
    match a.step with
    | .headerAnswer => handControl symCr (s.setCalls { s.calls with auto := some { a with step := .headerCr } })
    | .trailerAnswer => clearRequest .autoSend (s.setCalls { s.calls with auto := none, phase := some .traffic })
    | _ => s

/-- An answer-back request (R42). With text in the latch it waits as PENDING until the transmitter looks for a character,
which is at this same instant where R42 says that the text begins at once. -/
def answerBack (s : State) : State :=
  match s.line.abState with
  | .none =>
    match s.ident.latch with
    | none => seqWruAnswered (post (.wruAnswered 0 0 true) s)
    | some _ => s.setLine { s.line with abState := .pending, absorbed := 0 }
  | .pending => s.setLine { s.line with absorbed := min 255 (s.line.absorbed + 1) }
  | .sending => s.setLine { s.line with absorbed := min 255 (s.line.absorbed + 1) }

/-! ## Automatic sending (R178, R179) -/

/-- The HEADER step begins with an answer-back request (R179). -/
def autoHeader (a : AutoSend) (s : State) : State :=
  answerBack (s.setCalls { s.calls with auto := some { a with step := .headerAnswer } })

/-- An attempt ends and a clear is requested (R178, R179). -/
def autoFail (a : AutoSend) (cause : AutoCause) (s : State) : State := clearRequest .autoSend (autoFailCore a cause s)

/-- Whether the captured identity lets an automatic send go on (R178). -/
def identityAccepts (expected : List PatPos) (s : State) : Bool :=
  expected == [] || (s.calls.status == .captured && patternMatches expected s.calls.captured)

/-- The comparison of R178. -/
def autoCompare (a : AutoSend) (s : State) : State :=
  match findMsg a.message s with
  | none => s
  | some r => if identityAccepts r.expected s then autoHeader a s else autoFail a .ident s

/-- A capture ends by itself: its owner acts, an automatic send by comparing (R170, R178). -/
def captureEnd (s : State) : State :=
  let s1 := captureStop s
  match s1.calls.auto with
  | some a => if a.step = .capture then autoCompare a s1 else s1
  | none => s1

/-- What an automatic send makes of its channel's report (R179). After DONE its record names no channel any longer (R165; log entry
49). -/
def autoReport (a : AutoSend) (r : Report) (s : State) : State :=
  match r with
  | .done =>
    let got := s.calls.captured
    let s1 := post (.autoSendDone a.message) (updateMsg a.message
      (fun m => { m with delivery := .sent, remote := if got = [] then m.remote else got }) s)
    if s1.calls.state = .clearing then s1.setCalls { s1.calls with auto := none, phase := some .traffic }
    else handControl symCr (s1.setCalls { s1.calls with auto := some ⟨a.message, .trailerCr, none⟩ })
  | .aborted => autoFail a .aborted s
  | .held .callEnd => autoFailCore a .held s
  | .held _ => autoFail a .held s
  | .stopped => autoFail a .stopped s

/-- The BODY step: the lowest-numbered IDLE channel is started on the message, or the attempt fails (R179). -/
def autoBody (a : AutoSend) (s : State) : State :=
  match idleChan s with
  | none => autoFail a .channel s
  | some c =>
    let b : AutoSend := ⟨a.message, .body, some c⟩
    let e := startChan c a.message 0 .justTransmitter .now .sequencer (s.setCalls { s.calls with auto := some b })
    match e.2 with
    | some r => autoReport b r e.1
    | none => e.1

/-- A capture begins (R170). -/
def captureBegin (s : State) : State :=
  s.setCalls { s.calls with
    capturing := true
    captured := []
    captureStartT := true
    captureGapT := false
    auto := s.calls.auto.map fun a => if a.step = .wru then { a with step := .capture } else a }

/-- The transmitter has taken the symbol CONTROL held (R170, R179). -/
def controlTaken (y : Symbol) (s : State) : State :=
  if y = symWru then
    let s1 := s.setCalls { s.calls with wruPending := false }
    if s1.calls.state = .clearing then s1 else captureBegin s1
  else
    match s.calls.auto with
    | none => s
    | some a =>
      match a.step with
      | .headerCr => handControl symLf (s.setCalls { s.calls with auto := some { a with step := .headerLf } })
      | .headerLf => autoBody a s
      | .trailerCr => handControl symLf (s.setCalls { s.calls with auto := some { a with step := .trailerLf } })
      | .trailerLf => answerBack (s.setCalls { s.calls with auto := some { a with step := .trailerAnswer } })
      | _ => s

/-! ## Collection (R175, R176) -/

/-- A message may be collected by the caller whose identity was captured (R175). -/
def collectable (captured : List Symbol) (r : Record) : Bool :=
  r.kind == .prepared && r.state != .opened && r.delivery == .held && r.expected != [] && patternMatches r.expected captured

/-- The collection ends (R176). -/
def collEnd (s : State) : State :=
  match s.calls.coll with
  | none => s
  | some k =>
    let s1 := post (.collectionDone k.collected k.skipped) s
    s1.setCalls { s1.calls with
      coll := none
      phase := if s1.calls.state = .incoming then some .traffic else s1.calls.phase }

/-- What a channel's report makes of the current message and the counts (R176). -/
def collOutcome (n : Nat) (r : Report) (s : State) : State :=
  let s1 := match r with
    | .done => updateMsg n (fun m => { m with delivery := .collected }) s
    | .aborted => s
    | .stopped => updateMsg n (fun m => { m with delivery := .held }) s
    | .held _ => updateMsg n (fun m => { m with delivery := .held }) s
  s1.setCalls { s1.calls with coll := s1.calls.coll.map fun k =>
    { k with current := none, collected := if r = .done then k.collected + 1 else k.collected } }

/-- The report ends the collection (R176). -/
def Report.isHeld (r : Report) : Bool := match r with
  | .held _ => true
  | _ => false

/-- The turns of a collection over its list, until a channel runs or the list is done (R176). -/
def collTurns : List Nat → State → State
  | [], s => collEnd s
  | n :: rest, s =>
    if s.calls.state = .clearing then collEnd s
    else
      let s0 := s.setCalls { s.calls with coll := s.calls.coll.map fun k => { k with remaining := rest, current := none } }
      match findMsg n s0 with
      | none => collTurns rest s0
      | some r =>
        if collectable s0.calls.captured r then
          match idleChan s0 with
          | none =>
            collTurns rest (post (.collectionSkipped n) (s0.setCalls { s0.calls with
              coll := s0.calls.coll.map fun k => { k with skipped := k.skipped + 1 } }))
          | some c =>
            let s1 := updateMsg n (fun m => { m with delivery := .sending }) (s0.setCalls { s0.calls with
              coll := s0.calls.coll.map fun k => { k with current := some (n, c) } })
            let e := startChan c n 0 .justTransmitter .now .sequencer s1
            match e.2 with
            | none => e.1
            | some rep => if rep.isHeld then collEnd (collOutcome n rep e.1) else collTurns rest (collOutcome n rep e.1)
        else collTurns rest s0

/-- The current channel of a collection reports (R176). -/
def collReport (n : Nat) (r : Report) (s : State) : State :=
  let s1 := collOutcome n r s
  if r.isHeld then collEnd s1
  else match s1.calls.coll with
    | some k => collTurns k.remaining s1
    | none => s1

/-- A SEND HELD trigger action (R175). -/
def collectionStart (s : State) : State :=
  if unattended s = true ∧ s.calls.state = .incoming ∧ s.calls.phase = some .traffic ∧ s.calls.status = .captured
      ∧ s.calls.coll = none then
    match (s.store.directory.filter (collectable s.calls.captured)).map (·.number) with
    | [] => post (.collectionDone 0 0) s
    | list => collTurns list (s.setCalls { s.calls with coll := some ⟨list, none, 0, 0⟩, phase := some .collection })
  else s

/-! ## The owed-print drain (R180) -/

/-- A message carries PRINT OWED and is not OPEN (R180). -/
def Record.drains (r : Record) : Bool := r.printOwed && r.state != .opened

/-- The test that finds no owed message while the call state is IDLE clears the drain request mark (R180). -/
def drainTest (s : State) : State :=
  if s.calls.state = .idle ∧ s.store.directory.any Record.drains = false then s.setCalls { s.calls with drainReq := false } else s

/-- CH1 reports to the drain of message n (R180). -/
def drainReport (n : Nat) (r : Report) (s : State) : State :=
  match r with
  | .done =>
    let s1 := post (.owedPrinted n) (updateMsg n (fun m => { m with printOwed := false }) s)
    drainTest (s1.setCalls { s1.calls with drain := none })
  | .held _ => s
  | .aborted => drainTest (s.setCalls { s.calls with drain := none })
  | .stopped => drainTest (s.setCalls { s.calls with drain := none })

/-- The conditions of a drain start hold (R180). -/
def drainReady (s : State) : Bool :=
  (s.calls.autoDrain || s.calls.drainReq) && s.calls.state == .idle && s.printer.engine == .idle && s.ch1.isNone
    && s.calls.drain.isNone

/-! ## What the channels report -/

/-- A channel the sequencer started reports: to the automatic send, the collection or the drain that follows it, if any. -/
def seqReport (c : Chan) (r : Report) (s : State) : State :=
  match s.calls.auto with
  | some a =>
    if a.channel = some c then autoReport a r s else s
  | none =>
    match s.calls.coll.bind (·.current) with
    | some (n, d) => if d = c then collReport n r s else s
    | none =>
      match s.calls.drain with
      | some n => if c = .ch1 then drainReport n r s else s
      | none => s

/-- The state after a channel operation, with its report heard. -/
def told (c : Chan) (e : State × Option Report) : State :=
  match e.2 with
  | some r => seqReport c r e.1
  | none => e.1

/-- A hold of both channels (R120). -/
def holdBoth (reason : HoldReason) (s : State) : State :=
  let s1 := told .ch0 (holdChan .ch0 reason s)
  told .ch1 (holdChan .ch1 reason s1)

/-- A sink has entered its permanent state: a RUNNING channel whose set holds it is held (R69, R119). -/
def holdForSink (c : Chan) (s : State) : State :=
  match s.chan c with
  | some w => if w.phase = .running ∧ sinksPermanent w.sinks s = true then told c (holdChan c .sink s) else s
  | none => s

end Sys2Proof.Machine
end

