-- ==== Sys2Proof/Machine/AppendOps.lean ====
section
/-! DEFINITION. Appending to and closing messages (R88 to R92, R96), with the notices to the channels that read them (R102, R116),
and the end of a call (R168). -/

namespace Sys2Proof.Machine

/-- A channel WAITING on message n hears that it was lengthened or closed: it goes on in RUNNING, or is done (R116). -/
def wakeChan (c : Chan) (n : Nat) (s : State) : State :=
  match s.chan c with
  | some w => if w.phase = .waiting ∧ w.message = n then told c (proceedChan c s) else s
  | none => s

/-- The lengthened and closed notices of message n (R102). -/
def wake (n : Nat) (s : State) : State := wakeChan .ch1 n (wakeChan .ch0 n s)

/-- The append needs a new block (R88, R89). -/
def appendNew (n : Nat) (y : Symbol) (s : State) : State × Bool :=
  match findMsg n s with
  | none => (s, false)
  | some r =>
    if s.store.blockAllowed r.kind then
      match s.store.free with
      | [] => (s, false)
      | b :: rest =>
        let t := { s.store with free := rest }.writeBlock b [y.toByte]
        (wake n (updateMsg n (fun m => { m with chain := m.chain ++ [⟨b, 1, false⟩] }) (s.setStore t)), true)
    else (s, false)

/-- One symbol is appended to message n; false where the append fails (R88). -/
def appendSymbol (n : Nat) (y : Symbol) (s : State) : State × Bool :=
  match findMsg n s with
  | none => (s, false)
  | some r =>
    match openLast r.chain with
    | none => appendNew n y s
    | some b =>
      let j := r.chain.length - 1
      let rd := readBlock n j .append none s
      if rd.damaged then appendNew n y rd.state
      else
        let s0 := rd.state
        let bytes := (s0.store.blockBytes b.block).take b.fill ++ [y.toByte]
        let s1 := updateMsg n (fun m => { m with chain := m.chain.modify j (fun k => { k with fill := k.fill + 1 }) })
          (s0.setStore (s0.store.writeBlock b.block bytes))
        let fresh := (s1.store.blockBytes b.block).map Symbol.ofByte
        (wake n (blockChanged n j fresh none s1), true)

/-- Symbols are appended in order until one fails: the state and how many were taken (R94). -/
def appendAll (n : Nat) : List Symbol → State → State × Nat
  | [], s => (s, 0)
  | y :: ys, s =>
    let e := appendSymbol n y s
    if e.2 then
      let more := appendAll n ys e.1
      (more.1, more.2 + 1)
    else (e.1, 0)

/-- An OPEN message leaves OPEN (R85, R92, R96). -/
def closeMessage (n : Nat) (st : MsgState) (s : State) : State :=
  match findMsg n s with
  | none => s
  | some r =>
    let t := (match r.holder with
      | some h => s.store.setSlot h none
      | none => s.store).update n (fun m => { m with state := st, closedAt := some s.store.clock, holder := none })
    wake n (post (.messageClosed n st) (s.setStore t))

/-- The received message that the LINE slot names leaves OPEN, if there is one (R92). -/
def closeLine (st : MsgState) (s : State) : State :=
  match s.store.slotLine with
  | some n => closeMessage n st s
  | none => s

/-- A RECEIVE symbol is offered to the message the LINE slot names (R90), whose quality fields it updates (R91); the new
mutilated count goes to the sequencer (R172). -/
def receiveInto (n : Nat) (y : Symbol) (p : Nat) (exceeds : Bool) (s : State) : State :=
  let e := appendSymbol n y s
  let s1 :=
    if e.2 then e.1
    else
      let was := match findMsg n e.1 with
        | some r => r.truncated
        | none => true
      let s0 := updateMsg n (fun m => { m with truncated := true }) e.1
      if was then s0 else post (.storeFull n .blocks) s0
  let s2 := updateMsg n (fun m => { m with
    worstP := max m.worstP p
    overCount := if exceeds then bump m.overCount else m.overCount
    mutilatedCount := if y.mutilated then bump m.mutilatedCount else m.mutilatedCount }) s1
  match findMsg n s2 with
  | none => s2
  | some r =>
    if y.mutilated = true ∧ unattended s2 = true ∧ s2.calls.mutLimit ≠ 0 ∧ r.mutilatedCount = s2.calls.mutLimit
    then clearRequest .mutilation s2 else s2

/-- A RECEIVE symbol is offered to STORE (R90). -/
def storeReceive (y : Symbol) (p : Nat) (exceeds : Bool) (s : State) : State :=
  match s.store.slotLine with
  | some n => receiveInto n y p exceeds s
  | none =>
    if s.store.directory.length < Config.directorySize then
      let n := s.store.nextFree
      let t := { s.store.createMsg .received .line with unstoredMark := false }
      receiveInto n y p exceeds (post (.messageOpened n) (s.setStore t))
    else
      let t := { s.store with unstored := bump s.store.unstored, unstoredMark := true }
      if s.store.unstoredMark then s.setStore t else post (.storeFull 0 .directory) (s.setStore t)

/-- The call ends (R168), in the order of its six steps. -/
def callEnd (cause : CallCause) (s : State) : State :=
  let s1 := if s.calls.capturing then captureStop s else s
  let s2 := s1.setCalls { s1.calls with
    settleT := none, captureStartT := false, captureGapT := false, idleT := none, breakGuardT := false,
    clearGuardT := false, wruPending := false }
  let s3 := leave .control (s2.setLine { s2.line with control := none })
  let s4 := closeLine .incomplete s3
  let s5 := autoCut (holdBoth .callEnd s4)
  let s6 := s5.setDist { s5.dist with storeAdd := false } |>.setKb { s5.kb with callLock := false }
  let s7 := s6.setCalls { s6.calls with state := .idle, snapshot := none, phase := none }
  drainTest (post (.call .idle cause) s7)

end Sys2Proof.Machine
end

