-- ==== Sys2Proof/Machine/DeliveryOps.lean ====
section
/-! DEFINITION. Deliveries (chapter 4): RECEIVE and SENT symbols that do not wait (R66, R67), the keyboard's head (R53, R68, R69,
R95), and the transmitter that takes characters from an answer-back or the grant holder (R34, R35, R42, R43). -/

namespace Sys2Proof.Machine

/-! ## Sources that do not wait (R66, R67) -/

/-- PRINTER takes a RECEIVE or SENT symbol, or it is dropped with PRINT LOST; the Bool says that it was dropped. -/
def offerPrinter (y : Symbol) (s : State) : State × Bool :=
  if s.printer.offer = .takes then (s.setPrinter (s.printer.accept y), false) else (setFlag .printLost s, true)

/-- PUNCH takes a RECEIVE or SENT symbol, or it is dropped with PUNCH LOST; the Bool says that it was dropped. -/
def offerPunch (y : Symbol) (s : State) : State × Bool :=
  if s.punch.offer = .takes then (s.setPunch (s.punch.accept y), false) else (setFlag .punchLost s, true)

/-- The owed marks of R67 on the received message that is open at the end of the delivery. -/
def markOwed (print punch : Bool) (s : State) : State :=
  match s.store.slotLine with
  | some n => updateMsg n (fun m => { m with printOwed := m.printOwed || print, punchOwed := m.punchOwed || punch }) s
  | none => s

/-- A SENT symbol is delivered to the SENT row (R16, R61, R66), and the idle timer starts afresh (R173). -/
def sentDeliver (y : Symbol) (s : State) : State :=
  let a := if s.dist.rowSent.printer then offerPrinter y s else (s, false)
  let b := if s.dist.rowSent.punch then offerPunch y a.1 else (a.1, false)
  restartIdle (markOwed a.2 b.2 b.1)

/-- The effective RECEIVE set (R65). -/
def receiveSet (s : State) : SinkSet :=
  { s.dist.rowReceive with store := s.dist.rowReceive.store || s.dist.storeAdd }

/-- PUNCH takes part in RECEIVE deliveries (R71). -/
def gatePasses (s : State) : Bool := !s.dist.gated || s.dist.gateOpen

/-- A RECEIVE symbol is delivered to the effective RECEIVE set with its p and over-threshold mark (R61, R66, R67, R71). -/
def receiveDeliver (y : Symbol) (p : Nat) (exceeds : Bool) (s : State) : State :=
  let set := receiveSet s
  let a := if set.printer then offerPrinter y s else (s, false)
  let b := if set.punch && gatePasses s then offerPunch y a.1 else (a.1, false)
  let t := if set.store then storeReceive y p exceeds b.1 else b.1
  restartIdle (markOwed a.2 b.2 t)

/-! ## The keyboard's head (R53, R68, R69, R95) -/

/-- The routing row of the keyboard mode in force (R53). -/
def keyboardRow (s : State) : SinkSet := match s.kb.mode with
  | .line => s.dist.rowLine
  | .loc => s.dist.rowLocal

/-- What STORE answers to KEYBOARD (R95). -/
def keyboardStoreOffer (s : State) : Offer :=
  match s.store.slotKeyboard.bind (fun n => findMsg n s) with
  | none => .permanent
  | some r => if needsBlock r.chain && !s.store.blockAllowed r.kind then .permanent else .takes

/-- A sink of the keyboard's row refuses permanently (R62, R69). -/
def keyboardRefused (row : SinkSet) (s : State) : Bool :=
  sinksPermanent row s || (row.store && keyboardStoreOffer s == .permanent)

/-- Every sink of the keyboard's row but TRANSMITTER can take the head (R68). -/
def keyboardReady (row : SinkSet) (s : State) : Bool :=
  sinksReady row s && (!row.store || keyboardStoreOffer s == .takes)

/-- The keyboard's head could leave but for STORE, which is asked before the delivery and refuses permanently (R62, R69, R95): a
head that has waited for another sink is then discarded, and not held back (log entry 47). -/
def storeSpoils (row : SinkSet) (s : State) : Bool := sinksReady row s && row.store && keyboardStoreOffer s == .permanent

/-- The release interval starts where the typeahead has just become empty while KEYBOARD holds the grant (R40). -/
def startRelease (s : State) : State :=
  if s.kb.typeahead = [] ∧ s.line.holder = some .keyboard then
    s.setLine { s.line with releaseRun := some s.line.releaseTenths } else s

/-- A permanent refusal discards the head of the typeahead and every head after it, each with a bell (R53, R69): what refuses the
one refuses the next. KEYBOARD withdraws from the list. -/
def discardHeads (s : State) : State :=
  startRelease (ringBell (s.setKb { s.kb with typeahead := [] } |>.setLine (s.line.withdraw .keyboard)))

/-- The head of the typeahead is offered, which is the first of the two instants at which R69 finds a permanent refusal: it has
become the next symbol, or a ROUTE or a change of mode has given it a new set (R53, R54, R64, R69). A head that waits is not
offered again before the other sinks can take it (storeSpoils; log entry 47). -/
def offerHead (s : State) : State :=
  if s.kb.typeahead ≠ [] ∧ keyboardRefused (keyboardRow s) s = true then discardHeads s else s

/-- The printer has entered FAULT or the punch OFF while a head waits for it, the second instant of R69. -/
def headMeets (s : State) : State :=
  if s.kb.typeahead ≠ [] ∧ sinksPermanent (keyboardRow s) s = true then discardHeads s else s

/-- The waiting sources meet a sink that has entered its permanent state, in the order in which R69 and R137 name them: the
keyboard's head, then CH0, then CH1 (R69, R119, R137, R148; log entry 5). -/
def sinkEntered (s : State) : State := holdForSink .ch1 (holdForSink .ch0 (headMeets s))

/-- KEYBOARD's place in the arbiter: a head bound for the transmitter requests the grant, and without one KEYBOARD is not in the
list (R38, R53). -/
def settleKeyboard (s : State) : State :=
  if s.kb.typeahead ≠ [] ∧ (keyboardRow s).transmitter = true then request .keyboard s
  else s.setLine (s.line.withdraw .keyboard)

/-- STORE takes a keyboard symbol; where the read of its last block finds it uncorrectable and the reserve then refuses, the
symbol is lost to the store with a bell (R95). -/
def keyboardStore (y : Symbol) (s : State) : State :=
  match s.store.slotKeyboard with
  | none => s
  | some n =>
    let e := appendSymbol n y s
    if e.2 then e.1 else ringBell e.1

/-- The head leaves the typeahead and every sink of its row but TRANSMITTER takes it (R53, R68). -/
def keyboardLeave (row : SinkSet) (y : Symbol) (rest : List Symbol) (s : State) : State :=
  let s1 := sinksTake row y (startRelease (s.setKb { s.kb with typeahead := rest }))
  if row.store then keyboardStore y s1 else s1

/-! ## The transmitter (R34, R35) -/

/-- A character is taken: it is put on the line, TX case follows it, and it is delivered as SENT (R7, R16, R34). -/
def putChar (inserted : Bool) (code : BitVec 5) (y : Symbol) (s : State) : State :=
  sentDeliver (sentSymbol inserted code y) (s.setLine { s.line with
    txChar := some ⟨code, s.line.stopLen, inserted⟩
    txCase := caseAfter s.line.txUsos s.line.txCase code })

/-- The next symbol of answer-back text is taken, or the shift before it (R43). -/
def takeText (s : State) : State :=
  match s.line.abText with
  | [] => s
  | y :: ys =>
    let e := emission s.line.txCase y
    if e.1 then putChar true e.2 y s
    else putChar false e.2 y (s.setLine { s.line with abText := ys, abSent := s.line.abSent + 1 })

/-- KEYBOARD, holding the grant, gives its head where it is ready, and the new head is offered (R35, R53, R68); one that STORE alone
holds back is discarded (R95). The row's other sinks take the head before the SENT copy reaches them (R70; log entry 6). -/
def takeKeyboard (s : State) : State :=
  match s.kb.typeahead with
  | [] => s
  | y :: ys =>
    let row := keyboardRow s
    if row.transmitter && keyboardReady row s then
      let e := emission s.line.txCase y
      if e.1 then putChar true e.2 y s
      else offerHead (putChar false e.2 y (keyboardLeave row y ys s))
    else if row.transmitter && storeSpoils row s then discardHeads s
    else s

/-- A channel's symbol has been delivered: its position rises and it goes on (R114). -/
def advanceChan (c : Chan) (s : State) : State :=
  match s.chan c with
  | none => s
  | some w => told c (proceedChan c (s.setChan c (some { w with position := w.position + 1 })))

/-- A channel, holding the grant, gives its symbol where it is ready (R35, R114). Its other sinks take it before the SENT copy
reaches them (R70; log entry 6). -/
def takeChan (c : Chan) (s : State) : State :=
  match s.chan c with
  | none => s
  | some w =>
    match chanSymbol w s with
    | none => s
    | some y =>
      if w.phase = .running ∧ w.sinks.transmitter = true ∧ sinksReady w.sinks s = true then
        let e := emission s.line.txCase y
        if e.1 then putChar true e.2 y s
        else advanceChan c (putChar false e.2 y (sinksTake w.sinks y s))
      else s

/-- CONTROL, holding the grant, gives its one symbol and releases (R41). -/
def takeControl (s : State) : State :=
  match s.line.control with
  | none => s
  | some y =>
    let e := emission s.line.txCase y
    if e.1 then putChar true e.2 y s
    else controlTaken y (putChar false e.2 y (leave .control (s.setLine { s.line with control := none })))

/-- The grant holder's symbol is taken where transmit enable is ON, no rate change is pending and it is ready (R35, step 3). -/
def takeHolder (s : State) : State :=
  if s.line.txEnable = true ∧ s.line.pendingRate = none then
    match s.line.holder with
    | none => s
    | some .keyboard => takeKeyboard s
    | some (.chan c) => takeChan c s
    | some .control => takeControl s
  else s

/-- The free transmitter looks for a character (R35). A PENDING answer-back whose latch has become empty is answered "no
identity" (log entry 23). -/
def takeNext (s : State) : State :=
  match s.line.abState with
  | .sending => takeText s
  | .none => takeHolder s
  | .pending =>
    if s.line.txEnable = true ∧ s.line.pendingRate = none then
      match s.ident.latch.map (·.text) with
      | some (y :: ys) => takeText (s.setLine { s.line with abState := .sending, abText := y :: ys, abSent := 0 })
      | _ =>
        takeHolder (seqWruAnswered (post (.wruAnswered 0 s.line.absorbed true)
          (s.setLine { s.line with abState := .none, absorbed := 0 })))
    else s

/-- What every event that may make a character available ends with: KEYBOARD takes its place in the arbiter, and a free
transmitter looks for a character (R35, R53). DESIGN CHOICE (log entry 52): where the row freed a print or punch entry, the grant holder's
symbol that needs the transmitter too takes that entry here, before any KEYBOARD_DELIVERY or CHANNEL_DELIVERY row and before a RECEIVE symbol
whose STOP_SAMPLE falls at the same instant, which R70 allows to go first and which is dropped here. -/
def kick (s : State) : State :=
  let s1 := settleKeyboard s
  if s1.line.txChar = none then settleKeyboard (takeNext s1) else s1

/-- The end of a character's stop element (R35): answer-back text that has been sent ends (R43), and the transmitter looks for
its next character. -/
def charEnd (s : State) : State :=
  let s1 := s.setLine { s.line with txChar := none }
  if s1.line.abState = .sending ∧ s1.line.abText = [] then
    kick (seqWruAnswered (post (.wruAnswered s1.line.abSent s1.line.absorbed false)
      (s1.setLine { s1.line with abState := .none, absorbed := 0, abSent := 0 })))
  else kick s1

end Sys2Proof.Machine
end

