-- ==== Sys2Proof/Machine/KeyboardCommands.lean ====
section
/-! DEFINITION. The Keyboard Scanner's commands and events (chapter 3): LOAD_KEYMAP, KEYBOARD_LOCK, KEYBOARD_UNLOCK,
SET_KEYBOARD_MODE, CONFIGURE_KEYBOARD, KEY_SCAN, KEYBOARD_DELIVERY. -/

namespace Sys2Proof.Machine

/-- A list with a run written from a place up. -/
def overwrite {α : Type} (xs : List α) (first : Nat) (run : List α) : List α :=
  xs.take first ++ run ++ xs.drop (first + run.length)

/-- LOAD_KEYMAP (R50); a run that is empty or longer than 32 does not fit and is refused FORMAT (R182). -/
def execLoadKeymap (p : Port) (plane first : Byte) (entries : List (Byte × Byte)) (s : State) : Result :=
  if entries = [] ∨ 32 < entries.length then .next (s.refuse p 0x20 .format)
  else if 1 < plane.toNat ∨ 64 < first.toNat + entries.length then .next (s.refuse p 0x20 .range)
  else match checkAssignments entries with
    | none => .next (s.refuse p 0x20 .range)
    | some run =>
      let kb := if plane = 0 then { s.kb with plane0 := overwrite s.kb.plane0 first.toNat run }
        else { s.kb with plane1 := overwrite s.kb.plane1 first.toNat run }
      .next ((s.setKb kb).done p 0x20 [plane, first, byteOf run.length])

/-- The lock is in force (R55). -/
def Keyboard.locked (k : Keyboard) : Bool := k.portLock || k.callLock

/-- KEYBOARD_LOCK (R55). -/
def execKeyboardLock (p : Port) (s : State) : Result :=
  .next ((s.setKb { s.kb with portLock := true }).done p 0x21 [])

/-- KEYBOARD_UNLOCK (R55): both marks. -/
def execKeyboardUnlock (p : Port) (s : State) : Result :=
  .next ((s.setKb { s.kb with portLock := false, callLock := false }).done p 0x22 [])

/-- The keyboard mode becomes m (R54): nothing where it is in force; else the event, in LOCAL KEYBOARD leaves the arbiter, and the
head is offered toward its new row. -/
def changeMode (m : KbMode) (s : State) : State :=
  if m = s.kb.mode then s
  else
    let s1 := post (.keyboardMode m) (s.setKb { s.kb with mode := m })
    match m with
    | .line => offerHead s1
    | .loc => offerHead (leave .keyboard s1)

/-- The mode a byte names (R54). -/
def kbModeOf (b : Byte) : Option KbMode := if b = 0 then some .line else if b = 1 then some .loc else none

/-- SET_KEYBOARD_MODE (R54). -/
def execSetKeyboardMode (p : Port) (mode : Byte) (s : State) : Result :=
  match kbModeOf mode with
  | none => .next (s.refuse p 0x23 .range)
  | some m => .next (kick ((changeMode m s).done p 0x23 []))

/-- CONFIGURE_KEYBOARD (R47): D clamped to 2 to 8. -/
def execConfigureKeyboard (p : Port) (count : Byte) (s : State) : Result :=
  let d := clamp 2 8 count.toNat
  .next ((s.setKb { s.kb with confirmCount := d }).done p 0x24 [byteOf d])

/-! ## One scan (R46 to R49) -/

/-- One key after a scan that saw it down or up (R47). -/
def Key.scan (d : Nat) (k : Key) (seen : Bool) : Key :=
  if seen = k.down then { k with run := 0 }
  else if d ≤ k.run + 1 then ⟨seen, 0⟩
  else { k with run := k.run + 1 }

/-- Every key after a scan (R47). -/
def scanKeys (d : Nat) (keys : List Key) (seen : BitVec 64) : List Key :=
  keys.mapIdx fun n k => k.scan d (seen.getLsbD n)

/-- At least one key whose plane 0 assignment is SHIFT MODIFIER stands confirmed down (R48). -/
def modifierHeld (keys : List Key) (plane0 : List Assignment) : Bool :=
  (keys.zip plane0).any fun q => q.1.down && q.2 == .shift

/-- The positions confirmed down in a scan, in ascending order (R48). -/
def pressed (before after : List Key) : List Nat :=
  (List.range 64).filter fun n =>
    match before[n]?, after[n]? with
    | some b, some a => !b.down && a.down
    | _, _ => false

/-- A symbol is offered to the typeahead (R52), and where it is the head, to its row (R53). -/
def typeSymbol (y : Symbol) (s : State) : State :=
  if s.kb.locked then s
  else if s.kb.typeahead.length < 32 then
    let s1 := s.setKb { s.kb with typeahead := s.kb.typeahead ++ [y] } |>.setLine { s.line with releaseRun := none }
    if s.kb.typeahead = [] then offerHead s1 else s1
  else ringBell s

/-- An identity capture may be asked for by the WRU key or SEND WRU (R171). -/
def captureMayStart (s : State) : Bool :=
  (s.calls.state == .incoming || s.calls.state == .outgoing) && s.calls.phase == some .traffic
    && !s.calls.wruPending && !s.calls.capturing

/-- A function key acts (R54, R56 to R59, R171). -/
def keyFunction (f : Function) (s : State) : State :=
  match f with
  | .hereIs => if s.kb.locked then s else answerBack s
  | .wru => if captureMayStart s then wruAsk s else s
  | .breakIn => post .keyBreak (holdBoth .key s)
  | .lineLocal => changeMode (if s.kb.mode = .line then .loc else .line) s
  | .send =>
    if s.kb.locked then s
    else
      let s1 := told .ch0 (triggerChan .ch0 .sendKey s)
      told .ch1 (triggerChan .ch1 .sendKey s1)
  | .report n => post (.key n) s

/-- The assignment of a confirmed key is carried out (R49). -/
def keyAct (a : Assignment) (s : State) : State :=
  match a with
  | .none => s
  | .shift => s
  | .symbol y => kick (typeSymbol y s)
  | .function f => kick (keyFunction f s)

/-- The keys confirmed down are taken in turn, each read from the plane the modifier selects (R48). A symbol of one key whose row
could take it at once stays at the head while the later keys of the scan act: it leaves at KEYBOARD_DELIVERY, by the row of the mode
then in force, and holds its place in the typeahead until then (R53, R68; log entry 48). -/
def takeKeys : List Nat → State → State
  | [], s => s
  | n :: rest, s =>
    let plane := if s.kb.modifier then s.kb.plane1 else s.kb.plane0
    takeKeys rest (keyAct (plane.getD n .none) s)

/-- KEY_SCAN (R46 to R49): debounce, modifier, presses. -/
def execKeyScan (seen : BitVec 64) (s : State) : Result :=
  let keys := scanKeys s.kb.confirmCount s.kb.keys seen
  let s1 := s.setKb { s.kb with keys := keys, modifier := modifierHeld keys s.kb.plane0 }
  .next (takeKeys (pressed s.kb.keys keys) s1)

/-- KEYBOARD_DELIVERY (R53, R68): a head not bound for the transmitter leaves where every sink of its row can take it, and the new
head is offered; one that STORE alone holds back is discarded (R95; log entry 47); one bound for the transmitter leaves when its
character is taken. -/
def execKeyboardDelivery (s : State) : Result :=
  let row := keyboardRow s
  match s.kb.typeahead with
  | [] => .next (kick s)
  | y :: ys =>
    if row.transmitter = false ∧ keyboardReady row s = true then .next (kick (offerHead (keyboardLeave row y ys s)))
    else if row.transmitter = false ∧ storeSpoils row s = true then .next (kick (discardHeads s))
    else .next (kick s)

end Sys2Proof.Machine
end

