-- ==== Sys2Proof/Machine/CallCommands.lean ====
section
/-! DEFINITION. The Call Sequencer's commands and events (chapter 10): CALL_IN, CALL_OUT, CALL_CLEARED, AUTO_SEND,
SEND_ANSWER_BACK, SEND_WRU, CONFIGURE_ANSWERING, PRINT_OWED, SETTLE_EXPIRY, CAPTURE_START_EXPIRY, CAPTURE_GAP_EXPIRY,
IDLE_TIMER_EXPIRY, BREAK_GUARD_EXPIRY, CLEARING_GUARD_EXPIRY, DRAIN_START. -/

namespace Sys2Proof.Machine

/-! ## Call notices (R167 to R169) -/

/-- The drain in progress is ended at a call start (R167). -/
def endDrain (s : State) : State :=
  match s.calls.drain with
  | none => s
  | some _ =>
    let s1 := told .ch1 (stopChan .ch1 s)
    s1.setCalls { s1.calls with drain := none }

/-- The effects of every call start (R167). -/
def callStart (s : State) : State :=
  let s1 := endDrain s
  let s2 := s1.setLine { s1.line with
    rxCase := .letters, txCase := .unknown, peakP := 0, received := 0, overCount := 0, framingCount := 0,
    distReported := false }
  let s3 := s2.setDist { s2.dist with history := [], gateOpen := false }
  let s4 := s3.setStore { s3.store with unstoredMark := false }
  s4.setCalls { s4.calls with captured := [], status := .none, idleT := some s4.calls.idle }

/-- The settle timer has expired: WRU is handed to CONTROL, and the phase becomes CAPTURE (R169). -/
def settleDone (s : State) : State :=
  wruAsk (s.setCalls { s.calls with settleT := none, phase := some .capture })

/-- An incoming call in mode ATTENDED or UNATTENDED (R167, R169). A settle time of 0 expires at once. -/
def callInStart (s : State) : State :=
  let s1 := callStart s
  let c := s1.calls
  match c.mode with
  | .attended =>
    post (.call .incoming .callIn) (s1.setCalls { c with
      state := .incoming, snapshot := some .attended, phase := some .traffic })
  | .unattended =>
    let s2 := s1.setKb { s1.kb with callLock := true } |>.setDist { s1.dist with storeAdd := true }
    if c.identify then
      let s3 := post (.call .incoming .callIn) (s2.setCalls { c with
        state := .incoming, snapshot := some .unattended, phase := some .settle, settleT := some c.settle })
      if c.settle = 0 then settleDone s3 else s3
    else
      post (.call .incoming .callIn) (s2.setCalls { c with
        state := .incoming, snapshot := some .unattended, phase := some .traffic })

/-- CALL_IN (R167, R169). -/
def execCallIn (p : Port) (s : State) : Result :=
  if s.calls.state = .idle then .next (kick ((callInStart s).done p 0x70 []))
  else .next (s.refuse p 0x70 .state)

/-- An outgoing call; the channels PENDING on CALL OUT start (R110, R167). -/
def callOutStart (s : State) : State :=
  let s1 := callStart s
  let s2 := s1.setCalls { s1.calls with state := .outgoing, snapshot := some .attended, phase := some .traffic }
  let s3 := told .ch0 (triggerChan .ch0 .callOut s2)
  post (.call .outgoing .callOut) (told .ch1 (triggerChan .ch1 .callOut s3))

/-- CALL_OUT (R167). -/
def execCallOut (p : Port) (s : State) : Result :=
  if s.calls.state = .idle then .next (kick ((callOutStart s).done p 0x71 []))
  else .next (s.refuse p 0x71 .state)

/-- CALL_CLEARED (R168). -/
def execCallCleared (p : Port) (s : State) : Result :=
  if s.calls.state = .idle then .next (s.done p 0x72 [])
  else .next (kick ((callEnd .callCleared s).done p 0x72 []))

/-! ## Automatic sending and identity (R171, R177) -/

/-- The state is not one in which AUTO SEND applies to a message (R177, second check). -/
def autoSendState (r : Record) (s : State) : Bool :=
  s.calls.state != .outgoing || s.calls.phase != some .traffic || r.kind == .received || r.state == .opened
    || r.delivery != .ready

/-- AUTO_SEND (R177). -/
def execAutoSend (p : Port) (message : Half) (s : State) : Result :=
  let n := message.toNat
  match findMsg n s with
  | none => .next (s.refuse p 0x73 .noSuch)
  | some r =>
    if autoSendState r s then .next (s.refuse p 0x73 .state)
    else if idleChan s = none ∨ s.calls.wruPending = true ∨ s.calls.capturing = true then .next (s.refuse p 0x73 .busy)
    else
      let s1 := updateMsg n (fun m => { m with delivery := .sending, attempts := min 9 (m.attempts + 1) }) s
      let s2 := s1.setCalls { s1.calls with phase := some .autoSend, auto := some ⟨n, .wru, none⟩ }
      .next (kick ((wruAsk s2).begun p 0x73 []))

/-- SEND_ANSWER_BACK (R171). -/
def execSendAnswerBack (p : Port) (s : State) : Result := .next (kick ((answerBack s).done p 0x74 []))

/-- SEND_WRU (R171). -/
def execSendWru (p : Port) (s : State) : Result :=
  if s.calls.state = .idle ∨ s.calls.state = .clearing then .next (s.refuse p 0x75 .state)
  else if captureMayStart s then .next (kick ((wruAsk s).begun p 0x75 []))
  else .next (s.refuse p 0x75 .busy)

/-! ## Configuration (R166) -/

/-- The answering mode a byte names (R166). -/
def ansModeOf (b : Byte) : Option AnsMode := if b = 0 then some .attended else if b = 1 then some .unattended else none

/-- A present mode or on/off setting names no value of its list (R166). -/
def answeringRefused (presence mode identify autoDrain wruResponse : Byte) : Bool :=
  (present presence 0 && (ansModeOf mode).isNone) || (present presence 1 && (onOff identify).isNone)
    || (present presence 6 && (onOff autoDrain).isNone) || (present presence 7 && (onOff wruResponse).isNone)

/-- The settings but the WRU response, clamped and stored where they are present (R166). -/
def Calls.configure (c : Calls) (presence mode identify settle : Byte) (idle mutilation : Half)
    (attempts autoDrain : Byte) : Calls :=
  { c with
    mode := if present presence 0 then (ansModeOf mode).getD c.mode else c.mode
    identify := if present presence 1 then (onOff identify).getD c.identify else c.identify
    settle := if present presence 2 then clamp 0 5 settle.toNat else c.settle
    idle := if present presence 3 then clamp 10 600 idle.toNat else c.idle
    mutLimit := if present presence 4 then clamp 0 255 mutilation.toNat else c.mutLimit
    attemptLimit := if present presence 5 then clamp 1 9 attempts.toNat else c.attemptLimit
    autoDrain := if present presence 6 then (onOff autoDrain).getD c.autoDrain else c.autoDrain }

/-- The eight settings as stored (R166). -/
def answeringBytes (s : State) : List Byte :=
  let c := s.calls
  [byteOf c.mode.index, boolOf c.identify, byteOf c.settle] ++ halfOf c.idle ++ halfOf c.mutLimit
    ++ [byteOf c.attemptLimit, boolOf c.autoDrain, boolOf s.ident.wruResponse]

/-- The call session record (R165; log entry 18): a presence byte (bit 0 auto-send record, 1 collection record, 2 drain record,
3 current message of the collection), then the fields in R165's order. -/
def sessionBytes (c : Calls) : List Byte :=
  let current := c.coll.bind (·.current)
  [boolOf c.auto.isSome + 2 * boolOf c.coll.isSome + 4 * boolOf c.drain.isSome + 8 * boolOf current.isSome,
   byteOf c.state.index, optByte (c.snapshot.map AnsMode.index), optByte (c.phase.map CallPhase.index),
   boolOf c.wruPending, boolOf c.capturing]
    ++ runOf (c.captured.map Symbol.toByte) ++ [byteOf c.status.index]
    ++ (match c.auto with
      | some a => halfOf a.message ++ [byteOf a.step.index, optByte (a.channel.map chanIndex)]
      | none => [0, 0, absent, absent])
    ++ (match c.coll with
      | some k => byteOf k.remaining.length :: k.remaining.flatMap halfOf
      | none => [0])
    ++ (match current with
      | some q => halfOf q.1 ++ [byteOf (chanIndex q.2)]
      | none => [0, 0, absent])
    ++ [optByte (c.coll.map (·.collected)), optByte (c.coll.map (·.skipped))]
    ++ halfOf (c.drain.getD 0) ++ [boolOf c.drainReq]
    ++ [boolOf c.settleT.isSome, boolOf c.captureStartT, boolOf c.captureGapT, boolOf c.idleT.isSome,
        boolOf c.breakGuardT, boolOf c.clearGuardT]

/-- CONFIGURE_ANSWERING (R163, R166). -/
def execConfigureAnswering (p : Port) (presence mode identify settle : Byte) (idle mutilation : Half)
    (attempts autoDrain wruResponse : Byte) (s : State) : Result :=
  if answeringRefused presence mode identify autoDrain wruResponse then .next (s.refuse p 0x76 .range)
  else
    let s1 := s.setCalls (s.calls.configure presence mode identify settle idle mutilation attempts autoDrain)
    let s2 := if present presence 7 then
        s1.setIdent { s1.ident with wruResponse := (onOff wruResponse).getD s1.ident.wruResponse } else s1
    .next (s2.done p 0x76 (answeringBytes s2 ++ sessionBytes s2.calls))

/-! ## The owed-print drain (R180) -/

/-- PRINT_OWED (R180). -/
def execPrintOwed (p : Port) (s : State) : Result :=
  let n := (s.store.directory.filter Record.drains).length
  let s1 := if n = 0 then s else s.setCalls { s.calls with drainReq := true }
  .next (s1.done p 0x52 [byteOf n])

/-- DRAIN_START (R180): CH1 is started on the oldest owed message. -/
def execDrainStart (s : State) : Result :=
  match s.store.directory.find? Record.drains with
  | none => .next (drainTest s)
  | some r =>
    if drainReady s then
      let s1 := s.setCalls { s.calls with drain := some r.number }
      .next (kick (told .ch1 (startChan .ch1 r.number 0 .justPrinter .now .sequencer s1)))
    else .next s

/-! ## Timers (R169, R170, R173, R174) -/

/-- SETTLE_EXPIRY (R169). -/
def execSettleExpiry (s : State) : Result :=
  if s.calls.settleT.isSome then .next (kick (settleDone s)) else .next s

/-- CAPTURE_START_EXPIRY (R170). -/
def execCaptureStartExpiry (s : State) : Result :=
  if s.calls.captureStartT then .next (kick (captureEnd s)) else .next s

/-- CAPTURE_GAP_EXPIRY (R170). -/
def execCaptureGapExpiry (s : State) : Result :=
  if s.calls.captureGapT then .next (kick (captureEnd s)) else .next s

/-- IDLE_TIMER_EXPIRY (R173). -/
def execIdleTimerExpiry (s : State) : Result :=
  if s.calls.idleT.isSome then
    if unattended s then .next (kick (clearRequest .idle (closeLine .incomplete s)))
    else .next (restartIdle (post .idleTimeout s))
  else .next s

/-- A guard has expired: the call ends by itself (R168, R174). -/
def selfClear (cause : SelfCause) (s : State) : State := kick (post (.selfCleared cause) (callEnd .self s))

/-- BREAK_GUARD_EXPIRY (R174). -/
def execBreakGuardExpiry (s : State) : Result :=
  if s.calls.breakGuardT then .next (selfClear .breakIn s) else .next s

/-- CLEARING_GUARD_EXPIRY (R174). -/
def execClearingGuardExpiry (s : State) : Result :=
  if s.calls.clearGuardT then .next (selfClear .clearing s) else .next s

end Sys2Proof.Machine
end

