-- ==== Sys2Proof/Machine/ChannelCommands.lean ====
section
/-! DEFINITION. The transfer channels' commands and event (chapter 6): START_CHANNEL, HOLD, RESUME, STOP_CHANNEL, READ_CHANNEL,
CHANNEL_DELIVERY. The record of an answer is read when the channel has acted, before the transmitter looks for a character
(log entry 26). -/

namespace Sys2Proof.Machine

/-- The sink set a START CHANNEL names: not empty, and nothing but TRANSMITTER, PRINTER and PUNCH (R109). -/
def channelSinks (b : Byte) : Option SinkSet := if 1 ≤ b.toNat ∧ b.toNat ≤ 7 then some (SinkSet.ofByte b) else none

/-- START_CHANNEL (R109). -/
def execStartChannel (p : Port) (channel : Byte) (message position : Half) (sinks trigger : Byte) (s : State) : Result :=
  match chanOf channel with
  | none => .next (s.refuse p 0x40 .range)
  | some c =>
    if (s.chan c).isSome then .next (s.refuse p 0x40 .busy)
    else match findMsg message.toNat s with
      | none => .next (s.refuse p 0x40 .noSuch)
      | some r =>
        if r.length < position.toNat then .next (s.refuse p 0x40 .range)
        else match channelSinks sinks, chTriggerOf trigger with
          | some k, some t =>
            let e := startChan c message.toNat position.toNat k t (.port p) s
            .next (kick ((told c e).begun p 0x40 (chanBytes c e.1)))
          | _, _ => .next (s.refuse p 0x40 .range)

/-- HOLD (R121). -/
def execHold (p : Port) (channel : Byte) (s : State) : Result :=
  match chanOf channel with
  | none => .next (s.refuse p 0x41 .range)
  | some c =>
    if (s.chan c).isNone then .next (s.refuse p 0x41 .state)
    else
      let e := holdChan c .command s
      .next (kick ((told c e).done p 0x41 (chanBytes c e.1)))

/-- A HELD channel is resumed (R121): into RUNNING, or into PENDING where its trigger has not occurred. -/
def resumeChan (c : Chan) (w : ChanWork) (s : State) : State × Option Report :=
  if w.occurred then proceedChan c s else (s.setChan c (some { w with phase := .pending }), none)

/-- RESUME (R121). -/
def execResume (p : Port) (channel : Byte) (s : State) : Result :=
  match chanOf channel with
  | none => .next (s.refuse p 0x42 .range)
  | some c =>
    match s.chan c with
    | none => .next (s.refuse p 0x42 .state)
    | some w =>
      match w.phase with
      | .held _ =>
        let e := resumeChan c w s
        .next (kick ((told c e).done p 0x42 (chanBytes c e.1)))
      | _ => .next (s.refuse p 0x42 .state)

/-- STOP_CHANNEL (R122): an IDLE channel is answered DONE with no change. -/
def execStopChannel (p : Port) (channel : Byte) (s : State) : Result :=
  match chanOf channel with
  | none => .next (s.refuse p 0x43 .range)
  | some c =>
    let e := stopChan c s
    .next (kick ((told c e).done p 0x43 (chanBytes c e.1)))

/-- READ_CHANNEL (R124). -/
def execReadChannel (p : Port) (channel : Byte) (s : State) : Result :=
  match chanOf channel with
  | none => .next (s.refuse p 0x44 .range)
  | some c => .next (s.done p 0x44 (chanBytes c s))

/-- A RUNNING channel without TRANSMITTER has a symbol that every sink of its set can take (R68, R114). -/
def chanDeliverable (c : Chan) (s : State) : Option (ChanWork × Symbol) :=
  match s.chan c with
  | none => none
  | some w =>
    if w.phase = .running ∧ w.sinks.transmitter = false ∧ sinksReady w.sinks s = true then
      (chanSymbol w s).map fun y => (w, y)
    else none

/-- CHANNEL_DELIVERY (R68, R114). A symbol bound for the transmitter is delivered by the kick, where it is its turn. -/
def execChannelDelivery (c : Chan) (s : State) : Result :=
  match chanDeliverable c s with
  | some (w, y) => .next (kick (advanceChan c (sinksTake w.sinks y s)))
  | none => .next (kick s)

end Sys2Proof.Machine
end

