-- ==== Sys2Proof/Machine/IdentityOps.lean ====
section
/-! DEFINITION. The identity cells (R153), their one-time-programmable writes (R156, R158), an operation cut short (R160) and the
latch load (R161). -/

namespace Sys2Proof.Machine

/-- The bits of a cell of w bits, from bit number base up, that do not take a write (log entry 11). -/
def deadMask (w base : Nat) (dead : List Nat) : BitVec w :=
  (List.range w).foldl (fun m k => if base + k ∈ dead then m ||| (1#w <<< k) else m) 0

/-- A write to a cell: bits go from 1 to 0 only, and dead bits stay (R153). -/
def otpWrite {w : Nat} (old new dead : BitVec w) : BitVec w := old &&& (new ||| dead)

/-- Position p of a slot written with a byte, but for the bits of hold (R156, R160). -/
def IdSlot.writePosition (k : IdSlot) (p : Nat) (b hold : Byte) : IdSlot :=
  { k with positions := k.positions.modify p (fun old => otpWrite old b (deadMask 8 (8 * p) k.deadBits ||| hold)) }

/-- Consecutive positions written in order (R156). -/
def IdSlot.writeRun : IdSlot → Nat → List Byte → IdSlot
  | k, _, [] => k
  | k, p, b :: bs => IdSlot.writeRun (k.writePosition p b 0) (p + 1) bs

/-- The positions a PROGRAM cut after some whole positions has left, the next one only in part (R160). -/
def IdSlot.writeCut (k : IdSlot) (first : Nat) (text : List Byte) (whole : Nat) (hold : Byte) : IdSlot :=
  let k1 := k.writeRun first (text.take whole)
  match text[whole]? with
  | some b => k1.writePosition (first + whole) b hold
  | none => k1

/-- Every position written reads as given (R156). -/
def IdSlot.readsAs (k : IdSlot) (first : Nat) (text : List Byte) : Bool := (k.positions.drop first).take text.length == text

/-- Count cells left: those that read unwritten (R153). -/
def IdSlot.left (k : IdSlot) : Nat := (k.count.filter (fun c => !c)).length

/-- The first unwritten count cell, if any. -/
def IdSlot.nextCount (k : IdSlot) : Option Nat := k.count.findIdx? (fun c => !c)

/-- The first unwritten count cell is written and read back; false where it does not read back written (R156). -/
def IdSlot.spendCount (k : IdSlot) : IdSlot × Bool :=
  match k.nextCount with
  | none => (k, false)
  | some n => if 184 + n ∈ k.deadBits then (k, false) else ({ k with count := k.count.set n true }, true)

/-- The next cell of a COMMIT is written and read back: length, check code, marker (R158). -/
def IdSlot.commitCell (k : IdSlot) (length : Byte) (code : Half) (written : Nat) : IdSlot × Bool :=
  match written with
  | 0 =>
    let v := otpWrite k.length length (deadMask 8 160 k.deadBits)
    ({ k with length := v }, v == length)
  | 1 =>
    let v := otpWrite k.check code (deadMask 16 168 k.deadBits)
    if v = code then ({ k with check := v, wrongBits := [] }, true) else ({ k with check := v }, false)
  | _ => if 188 ∈ k.deadBits then (k, false) else ({ k with marker := true }, true)

/-- What the check code makes of a slot as it reads now (R161, R164). -/
def IdSlot.verdict (k : IdSlot) : Config.Verdict := verdictOf Config.slotVerdict k.wrongBits

/-- The text of a slot whose positions and length read as given, if the length lies in 1 to 20 (R161). -/
def latchText (bytes : List Byte) : Option (List Symbol) :=
  let n := (bytes.getD 20 0xFF).toNat
  if 1 ≤ n ∧ n ≤ 20 then some ((bytes.take n).map Symbol.ofByte) else none

/-- A latch load over slots, the highest first: what is taken, and the events in order (R161). -/
def loadFrom : List (Nat × IdSlot) → Option Latch × List Event
  | [] => (none, [])
  | (n, k) :: rest =>
    if k.marker then
      let bytes := k.positions ++ [k.length]
      match k.verdict with
      | .clean =>
        match latchText bytes with
        | some ys => (some ⟨n, ys⟩, [])
        | none => let more := loadFrom rest; (more.1, .identityBad n :: more.2)
      | .corrected e =>
        match latchText (flipBit bytes e) with
        | some ys => (some ⟨n, ys⟩, [.identityCorrected n])
        | none => let more := loadFrom rest; (more.1, .identityBad n :: more.2)
      | .uncorrectable => let more := loadFrom rest; (more.1, .identityBad n :: more.2)
    else loadFrom rest

/-- The slots with their numbers, the highest first. -/
def Identity.descending (i : Identity) : List (Nat × IdSlot) := (i.slots.zipIdx.map fun q => (q.2, q.1)).reverse

/-- The latch is loaded, and the load's events posted (R161). -/
def loadLatch (s : State) : State :=
  let e := loadFrom s.ident.descending
  postAll e.2 (s.setIdent { s.ident with latch := e.1 })

/-- The slot of a number, unwritten where there is none. -/
def Identity.slot (i : Identity) (n : Nat) : IdSlot := i.slots.getD n .unwritten

/-- The store with one slot changed. -/
def Identity.setSlot (i : Identity) (n : Nat) (k : IdSlot) : Identity := { i with slots := i.slots.set n k }

/-- A slot numbered below n is not committed (R155, R157). -/
def Identity.gapBelow (i : Identity) (n : Nat) : Bool := (i.slots.take n).any (fun k => !k.marker)

/-- The store with a PROGRAM in flight carried on to an unknown point of its 2 ms (R156, R160; log entry 9). Bits already written
stay written, so that a second look or a cut finds at least what the first found. -/
def Identity.midProgram (i : Identity) (draw : Nat) : Identity :=
  match i.op with
  | some (.program n first text) =>
    i.setSlot n ((i.slot n).writeCut first text (min text.length (Config.programProgress draw)) (Config.programPartial draw))
  | _ => i

/-- A PROGRAM is in flight, so that looking at the cells draws a free value. -/
def Identity.programming (i : Identity) : Bool := match i.op with
  | some (.program _ _ _) => true
  | _ => false

/-- The cells after a reset has ended the operation in flight (R160). -/
def Identity.cut (i : Identity) (draw : Nat) : Identity :=
  { i.midProgram draw with op := none, latch := none, wruResponse := true }

end Sys2Proof.Machine
end

