-- ==== Sys2Proof/Machine/IdentityCommands.lean ====
section
/-! DEFINITION. The Identity Store's commands and events (chapter 9): READ_SLOT, PROGRAM_SLOT, COMMIT_SLOT, PROTECT,
PROGRAM_COMPLETION, COMMIT_CELL_WRITE, PROTECT_COMPLETION, PROTECTED_FAIL_COMPLETION. -/

namespace Sys2Proof.Machine

/-- The check outcome of a slot as it reads now: CLEAN 0, CORRECTABLE 1, UNCORRECTABLE 2, NOT COMMITTED 3 (R164, R193). -/
def IdSlot.outcome (k : IdSlot) : Nat :=
  if k.marker then
    match k.verdict with
    | .clean => 0
    | .corrected _ => 1
    | .uncorrectable => 2
  else 3

/-- The READ SLOT result (R164, R193), for cells as they read and the rest of the store. -/
def slotBytes (k : IdSlot) (i : Identity) : List Byte :=
  k.positions ++ [k.length, byteOf k.left, boolOf k.marker, byteOf k.outcome, boolOf i.protect,
    optByte (i.op.map IdOp.kindIndex), optByte (i.op.bind IdOp.slot?), optByte (i.latch.map (·.slot)),
    (match i.latch with | some l => byteOf l.text.length | none => 0), boolOf i.wruResponse]

/-- READ_SLOT (R164). While a PROGRAM is in flight its positions are found written up to a free value, and stay so: what one look
has found written every later look finds written (R153, R156; log entry 9). -/
def execReadSlot (p : Port) (slot : Byte) (s : State) : Result :=
  if 7 < slot.toNat then .next (s.refuse p 0x60 .range)
  else
    let s1 := if s.ident.programming then drawFree (s.setIdent (s.ident.midProgram s.freeCount)) else s
    .next (s1.done p 0x60 (slotBytes (s1.ident.slot slot.toNat) s1.ident))

/-- The level of IDENTITY WRITE ENABLE that a write command reads (R154; log entry 12). -/
def readEnable (high : Bool) (s : State) : State := s.setPins { s.pins with writeEnable := high }

/-- A PROTECTED-FAIL operation begins (R159). -/
def beginProtectedFail (commit : Bool) (n : Nat) (s : State) : State :=
  s.setIdent { s.ident with op := some (.protectedFail commit n) }

/-- A PROGRAM operation is taken: the count cell is written and read back, and the operation ends at once where it does not read
back written (R156). -/
def beginProgram (n first : Nat) (text : List Byte) (s : State) : State :=
  let e := (s.ident.slot n).spendCount
  let i := s.ident.setSlot n e.1
  if e.2 then s.setIdent { i with op := some (.program n first text) }
  else post (.identityFail .program (some n) .verify (some e.1.left)) (s.setIdent i)

/-- PROGRAM_SLOT (R154, R155); a run that is empty or longer than 20 does not fit and is refused FORMAT (R182). -/
def execProgramSlot (p : Port) (writeEnable : Bool) (slot first : Byte) (text : List Byte) (s : State) : Result :=
  let n := slot.toNat
  let s0 := readEnable writeEnable s
  let k := s.ident.slot n
  if text = [] ∨ 20 < text.length then .next (s0.refuse p 0x61 .format)
  else if 7 < n ∨ 20 < first.toNat + text.length ∨ (checkSymbols text).isNone then .next (s0.refuse p 0x61 .range)
  else if writeEnable = false then .next (s0.refuse p 0x61 .locked)
  else if s.ident.op.isSome then .next (s0.refuse p 0x61 .busy)
  else if s.ident.protect then .next ((beginProtectedFail false n s0).begun p 0x61 [slot, byteOf k.left])
  else if k.marker then .next (s0.refuse p 0x61 .state)
  else if s.ident.gapBelow n then .next (s0.refuse p 0x61 .order)
  else if k.left = 0 then .next (s0.refuse p 0x61 .count)
  else
    let s1 := beginProgram n first.toNat text s0
    .next (s1.begun p 0x61 [slot, byteOf (s1.ident.slot n).left])

/-- A position below the length does not hold a symbol that passes the check of R5 (R157). -/
def commitRefused (k : IdSlot) (length : Nat) : Bool := (checkSymbols (k.positions.take length)).isNone

/-- COMMIT_SLOT (R154, R157): the check code is computed when the command is taken (R158). -/
def execCommitSlot (p : Port) (writeEnable : Bool) (slot length : Byte) (s : State) : Result :=
  let n := slot.toNat
  let s0 := readEnable writeEnable s
  let k := s.ident.slot n
  if 7 < n ∨ length.toNat < 1 ∨ 20 < length.toNat then .next (s0.refuse p 0x62 .range)
  else if writeEnable = false then .next (s0.refuse p 0x62 .locked)
  else if s.ident.op.isSome then .next (s0.refuse p 0x62 .busy)
  else if s.ident.protect then .next ((beginProtectedFail true n s0).begun p 0x62 [])
  else if k.marker then .next (s0.refuse p 0x62 .state)
  else if s.ident.gapBelow n then .next (s0.refuse p 0x62 .order)
  else if commitRefused k length.toNat then .next (s0.refuse p 0x62 .range)
  else .next ((s0.setIdent { s.ident with
    op := some (.commit n length (Config.identityCheck k.positions length) 0) }).begun p 0x62 [])

/-- PROTECT (R154, R159). -/
def execProtect (p : Port) (writeEnable : Bool) (s : State) : Result :=
  let s0 := readEnable writeEnable s
  if writeEnable = false then .next (s0.refuse p 0x63 .locked)
  else if s.ident.op.isSome then .next (s0.refuse p 0x63 .busy)
  else if s.ident.protect then .next (s0.done p 0x63 [])
  else .next ((s0.setIdent { s.ident with op := some .protect }).begun p 0x63 [])

/-- The operation in flight becomes none. -/
def endOp (i : Identity) : Identity := { i with op := none }

/-- PROGRAM_COMPLETION (R156): every position is written by 2 ms and read back. -/
def execProgramCompletion (s : State) : Result :=
  match s.ident.op with
  | some (.program n first text) =>
    let k := (s.ident.slot n).writeRun first text
    let s1 := s.setIdent (endOp (s.ident.setSlot n k))
    let e : Event := if k.readsAs first text then .identityDone .program (some n) (some k.left)
      else .identityFail .program (some n) .verify (some k.left)
    .next (post e s1)
  | _ => .next s

/-- A COMMIT ends: its event, then the latch load with the load's own events (R158, R161). -/
def endCommit (e : Event) (s : State) : State := loadLatch (post e (s.setIdent (endOp s.ident)))

/-- COMMIT_CELL_WRITE (R158): the next of the three cells is written and read back. -/
def execCommitCellWrite (s : State) : Result :=
  match s.ident.op with
  | some (.commit n length code written) =>
    let e := (s.ident.slot n).commitCell length code written
    let i := s.ident.setSlot n e.1
    if e.2 = false then .next (endCommit (.identityFail .commit (some n) .verify none) (s.setIdent i))
    else if written < 2 then .next (s.setIdent { i with op := some (.commit n length code (written + 1)) })
    else .next (endCommit (.identityDone .commit (some n) none) (s.setIdent i))
  | _ => .next s

/-- PROTECT_COMPLETION (R159). -/
def execProtectCompletion (s : State) : Result :=
  match s.ident.op with
  | some .protect =>
    if s.ident.protectDead then
      .next (post (.identityFail .protect none .verify none) (s.setIdent (endOp s.ident)))
    else .next (post (.identityDone .protect none none) (s.setIdent { endOp s.ident with protect := true }))
  | _ => .next s

/-- PROTECTED_FAIL_COMPLETION (R159). -/
def execProtectedFailCompletion (s : State) : Result :=
  match s.ident.op with
  | some (.protectedFail commit n) =>
    let kind : IdKind := if commit then .commit else .program
    .next (post (.identityFail kind (some n) .protectedStore none) (s.setIdent (endOp s.ident)))
  | _ => .next s

end Sys2Proof.Machine
end

