-- ==== Sys2Proof/Machine/LineCommands.lean ====
section
/-! DEFINITION. The Line Unit's commands (chapter 2): CONFIGURE_LINE, RECEIVE_ON, RECEIVE_OFF, TRANSMIT_ON, TRANSMIT_OFF,
READ_LINE_QUALITY; and the line break they share with the receiver's events. -/

namespace Sys2Proof.Machine

/-- A line break is declared (R26): the mark, the event, the holds, the break guard during a call, and TX case. -/
def declareBreak (s : State) : State :=
  let s1 := holdBoth .lineBreak (post .breakDetected (s.setLine { s.line with breakDeclared := true }))
  let s2 := if s1.calls.state = .idle then s1 else s1.setCalls { s1.calls with breakGuardT := true }
  s2.setLine { s2.line with txCase := .unknown }

/-- The receiver enters HUNTING, which clears the character under measurement (R22). -/
def LineUnit.hunt (l : LineUnit) : LineUnit := { l with rx := .hunting, maxDisp := 0, units := [] }

/-- A rate change may be made now: the receiver HUNTING or OFF, the transmitter IDLE, no answer-back text in progress (R20). -/
def LineUnit.rateFree (l : LineUnit) : Bool :=
  (l.rx == .hunting || l.rx == .off) && l.txChar.isNone && l.abState != .sending

/-- A present CONFIGURE LINE setting holds a value that R21 refuses. -/
def lineRefused (presence rate stop txUsos rxUsos : Byte) : Bool :=
  (present presence 0 && decide (5 < rate.toNat))
    || (present presence 1 && !(stop == 64 || stop == 96 || stop == 128))
    || (present presence 4 && (onOff txUsos).isNone)
    || (present presence 5 && (onOff rxUsos).isNone)

/-- The settings of R21 but the rate, stored and clamped where they are present. -/
def LineUnit.configure (l : LineUnit) (presence stop : Byte) (breakTime : Half)
    (threshold txUsos rxUsos release : Byte) : LineUnit :=
  { l with
    stopLen := if present presence 1 then stop.toNat else l.stopLen
    breakMs := if present presence 2 then clamp 100 2000 breakTime.toNat / 10 * 10 else l.breakMs
    threshold := if present presence 3 then clamp 0 50 threshold.toNat else l.threshold
    txUsos := if present presence 4 then (onOff txUsos).getD l.txUsos else l.txUsos
    rxUsos := if present presence 5 then (onOff rxUsos).getD l.rxUsos else l.rxUsos
    releaseTenths := if present presence 6 then clamp 1 50 release.toNat else l.releaseTenths }

/-- The rate change is made (R20). -/
def makeRate (r : Nat) (s : State) : State :=
  post (.lineRate r) (s.setLine { s.line with rate := r, pendingRate := none }.pass)

/-- A present rate code is taken (R20): the Bool says that the change was left pending. -/
def takeRate (r : Nat) (s : State) : State × Bool :=
  if r = s.line.rate then (s.setLine { s.line with pendingRate := none }.pass, false)
  else if s.line.rateFree then (makeRate r s, false)
  else (s.setLine { s.line with pendingRate := some r }, true)

/-- The stored value of every setting and the pending rate (R21; log entry 18). -/
def LineUnit.settingBytes (l : LineUnit) : List Byte :=
  [byteOf l.rate, byteOf l.stopLen] ++ halfOf l.breakMs
    ++ [byteOf l.threshold, boolOf l.txUsos, boolOf l.rxUsos, byteOf l.releaseTenths, optByte l.pendingRate]

/-- The elapsed space reaches a break time stored in SPACING-HOLD with no break declared (R21). -/
def breakOverdue (presence : Byte) (spaceMs : Nat) (l : LineUnit) : Bool :=
  present presence 2 && l.rx == .spacingHold && !l.breakDeclared && decide (l.breakMs ≤ spaceMs)

/-- CONFIGURE_LINE (R20, R21). DESIGN CHOICE (log entry 51): in SPACING-HOLD, with a rate left pending and a break time already exceeded, the
rate is pending before the break is declared, so that a grant freed by a held channel does not pass before the row LINE_RATE. -/
def execConfigureLine (p : Port) (presence rate stop : Byte) (breakTime : Half)
    (threshold txUsos rxUsos release : Byte) (spaceMs : Nat) (s : State) : Result :=
  if lineRefused presence rate stop txUsos rxUsos then .next (s.refuse p 0x10 .range)
  else
    let s1 := s.setLine (s.line.configure presence stop breakTime threshold txUsos rxUsos release)
    let e := if present presence 0 then takeRate rate.toNat s1 else (s1, false)
    let s2 := if breakOverdue presence spaceMs e.1.line then declareBreak e.1 else e.1
    let result := s2.line.settingBytes
    let s3 := if e.2 then s2.begun p 0x10 result else s2.done p 0x10 result
    .next (kick s3)

/-- RECEIVE_ON (R28). -/
def execReceiveOn (p : Port) (s : State) : Result :=
  let l := s.line
  let l1 := if l.rx = .off then
      (if s.pins.lineMark then l.hunt else { l with rx := .spacingHold, breakDeclared := false, maxDisp := 0, units := [] })
    else l
  .next ((s.setLine l1).done p 0x11 [])

/-- RECEIVE_OFF (R28). -/
def execReceiveOff (p : Port) (s : State) : Result :=
  let l := s.line
  let l1 := if l.rx = .off then l else { l with rx := .off, breakDeclared := false, maxDisp := 0, units := [] }
  .next ((s.setLine l1).done p 0x12 [])

/-- TRANSMIT_ON (R36): the grant may pass and the transmitter looks for a character. -/
def execTransmitOn (p : Port) (s : State) : Result :=
  .next (kick ((s.setLine { s.line with txEnable := true }.pass).done p 0x13 []))

/-- TRANSMIT_OFF (R36). -/
def execTransmitOff (p : Port) (s : State) : Result :=
  .next ((s.setLine { s.line with txEnable := false }).done p 0x14 [])

/-- The READ LINE QUALITY result (R33, R193). -/
def LineUnit.qualityBytes (l : LineUnit) : List Byte :=
  [byteOf l.lastP, byteOf l.peakP] ++ halfOf l.received ++ halfOf l.overCount ++ halfOf l.framingCount
    ++ [byteOf l.threshold, byteOf l.rx.index, boolOf l.breakDeclared, boolOf l.txChar.isSome, boolOf l.txEnable,
        byteOf l.rate, optByte l.pendingRate, optByte (l.holder.map Requester.index)]
    ++ runOf (l.requests.map fun r => byteOf r.index)
    ++ [byteOf l.abState.index, byteOf l.absorbed]

/-- READ_LINE_QUALITY (R33). -/
def execReadLineQuality (p : Port) (s : State) : Result := .next (s.done p 0x15 s.line.qualityBytes)

end Sys2Proof.Machine
end

