-- ==== Sys2Proof/Machine/LineEvents.lean ====
section
/-! DEFINITION. The events of the line (chapter 2): START_EDGE, START_CHECK, UNIT_SAMPLE, TIMED_TRANSITION, STOP_SAMPLE,
MARK_RETURN, LINE_BREAK, LINE_RATE, CHARACTER_END, RELEASE_INTERVAL_EXPIRY; with what a stop sample hands on: the trigger
recogniser (R76 to R78), the capture (R170) and the received WRU (R163). An event that cannot fall in a state leaves it as it is
(log entry 3). -/

namespace Sys2Proof.Machine

/-- A character is under reception: transitions are timed (R22). -/
def RxState.timing (x : RxState) : Bool := x == .starting || x == .assembling

/-- START_EDGE (R22, R23): LINE IN turns from mark to space. -/
def execStartEdge (s : State) : Result :=
  if s.line.rx.timing = true ∨ s.pins.lineMark = false then .next s
  else
    let s1 := s.setPins { s.pins with lineMark := false }
    if s.line.rx = .hunting then
      .next (s1.setLine { s.line with rx := .starting, maxDisp := 0, units := [], lastFall := 0 })
    else .next s1

/-- START_CHECK (R23): slot 32. -/
def execStartCheck (s : State) : Result :=
  if s.line.rx = .starting then
    .next (s.setLine (if s.pins.lineMark then s.line.hunt else { s.line with rx := .assembling }))
  else .next s

/-- UNIT_SAMPLE (R24): the next data unit takes the value of the line. -/
def execUnitSample (s : State) : Result :=
  if s.line.rx = .assembling ∧ s.line.units.length < 5 then
    .next (s.setLine { s.line with units := s.line.units ++ [s.pins.lineMark] })
  else .next s

/-- The displacement of a transition at slot t (R29): its distance from the boundary k, the whole part of (t + 32) / 64. -/
def displacement (t : Nat) : Nat :=
  let b := 64 * ((t + 32) / 64)
  if b ≤ t then t - b else b - t

/-- TIMED_TRANSITION (R29): LINE IN turns at a slot of the character under reception. A transition at slot 416 itself belongs to
the stop sample, and the manual does not say which level the sample then reads: the model takes the sample first, so that this row
ignores the transition, level and all, and it comes after the sample as a START_EDGE or MARK_RETURN (log entry 41). -/
def execTimedTransition (slot : Nat) (s : State) : Result :=
  if s.line.rx.timing = true ∧ 1 ≤ slot ∧ slot < 416 then
    let s1 := s.setPins { s.pins with lineMark := !s.pins.lineMark }
    .next (s1.setLine { s.line with
      maxDisp := max s.line.maxDisp (displacement slot)
      lastFall := if s.pins.lineMark then slot else s.line.lastFall })
  else .next s

/-- The distortion percentage of a displacement (R30). -/
def percent (d : Nat) : Nat := (100 * d + 32) / 64

/-- The Line Unit after a stop sample (R10, R24, R25, R31, R32): RX case, quality record, receiver state. -/
def LineUnit.stopped (l : LineUnit) (mark : Bool) (rxCase : Case2) : LineUnit :=
  let p := percent l.maxDisp
  let q : LineUnit := { l with
    rxCase := rxCase
    lastP := p
    peakP := max l.peakP p
    received := bump l.received
    overCount := if l.threshold < p then bump l.overCount else l.overCount
    framingCount := if mark then l.framingCount else bump l.framingCount
    distReported := l.distReported || decide (l.threshold < p) }
  if mark then q.hunt else { q with rx := .spacingHold, breakDeclared := false }

/-- The flags and the event of a stop sample (R25, R32). -/
def stopReports (l : LineUnit) (mark : Bool) (s : State) : State :=
  let p := percent l.maxDisp
  let s1 := if l.threshold < p then setFlag .distortionSeen s else s
  let s2 := if l.threshold < p ∧ l.distReported = false then post (.distortion p) s1 else s1
  if mark then s2 else setFlag .framingSeen s2

/-- A RECEIVE symbol is handed to the capture that runs (R170). -/
def captureSee (y : Symbol) (s : State) : State :=
  let k := y.kind
  let skip := k = .explicitShift ∨ k = .blank ∨ ((k = .cr ∨ k = .lf) ∧ s.calls.captured = [])
  if s.calls.capturing = true ∧ ¬ skip then
    let s1 := s.setCalls { s.calls with
      captured := s.calls.captured ++ [y], captureStartT := false, captureGapT := true }
    if 20 ≤ s1.calls.captured.length then captureEnd s1 else s1
  else s

/-- One trigger action (R78). -/
def triggerAct (a : TriggerAction) (s : State) : State :=
  match a with
  | .endMessage => closeLine .closed s
  | .clearRequest => clearRequest .trigger s
  | .openGate => s.setDist { s.dist with gateOpen := true }
  | .shutGate => s.setDist { s.dist with gateOpen := false }
  | .sendHeld => collectionStart s
  | .report => s

/-- The actions of the matching entries in entry order, each followed by its TRIGGER event (R77). -/
def triggerActs : List (Nat × TriggerAction) → State → State
  | [], s => s
  | (n, a) :: rest, s => triggerActs rest (post (.trigger n) (triggerAct a s))

/-- The enabled entries whose pattern matches the last symbols of a history (R77). -/
def matching (triggers : List (Option Trigger)) (history : List Symbol) : List (Nat × TriggerAction) :=
  triggers.zipIdx.filterMap fun q =>
    match q.1 with
    | some t =>
      if t.enable && patternMatches t.pattern (history.drop (history.length - t.pattern.length)) then some (q.2, t.action)
      else none
    | none => none

/-- The history after a symbol joins its tail (R76). -/
def joinHistory (history : List Symbol) (y : Symbol) : List Symbol :=
  let h := history ++ [y]
  h.drop (h.length - 8)

/-- The trigger recogniser takes a RECEIVE symbol (R76, R77). -/
def recognise (y : Symbol) (s : State) : State :=
  if y.kind = .explicitShift ∨ y.kind = .blank then s
  else
    let h := joinHistory s.dist.history y
    match matching s.dist.triggers h with
    | [] => s.setDist { s.dist with history := h }
    | found =>
      let s1 := triggerActs found (s.setDist { s.dist with history := h })
      s1.setDist { s1.dist with history := [] }

/-- A received WRU makes an answer-back request in an unattended call, or where the WRU response option is on (R163). -/
def receivedWru (y : Symbol) (s : State) : State :=
  if y.kind = .wru ∧ (unattended s = true ∨ s.ident.wruResponse = true) then answerBack s else s

/-- The two hand-offs of a RECEIVE symbol, the recogniser and the capture (R61). While a capture runs the manual does not say
which sees the symbol first: a free value decides (log entry 15). -/
def handOff (y : Symbol) (s : State) : State :=
  if s.calls.capturing then
    let s0 := drawFree s
    if Config.captureFirst s.freeCount then recognise y (captureSee y s0) else captureSee y (recognise y s0)
  else recognise y s

/-- The break time has passed by the stop sample (R26): the slots from the last fall to slot 416, at the divisor of the rate,
against the break time in milliseconds of the 4.9152 MHz reference. -/
def breakAtStop (l : LineUnit) : Bool :=
  decide (l.breakMs * 49152 ≤ (416 - l.lastFall) * Config.divisor l.rate * 10)

/-- STOP_SAMPLE (R24, R25). -/
def execStopSample (s : State) : Result :=
  let l := s.line
  let mark := s.pins.lineMark
  if l.rx = .assembling ∧ l.units.length = 5 then
    let c := classify l.rxCase l.rxUsos (codeOfUnits l.units) mark
    let p := percent l.maxDisp
    let s1 := stopReports l mark (s.setLine (l.stopped mark c.2))
    let s2 := receiveDeliver c.1 p (decide (l.threshold < p)) s1
    let s3 := receivedWru c.1 (handOff c.1 s2)
    let s4 := if mark = false ∧ s3.line.rx = .spacingHold ∧ breakAtStop l = true then declareBreak s3 else s3
    .next (kick s4)
  else .next s

/-- MARK_RETURN (R25, R27): LINE IN turns from space to mark outside a character. -/
def execMarkReturn (s : State) : Result :=
  if s.line.rx.timing = true ∨ s.pins.lineMark = true then .next s
  else
    let s1 := s.setPins { s.pins with lineMark := true }
    if s.line.rx = .spacingHold then
      let s2 := s1.setLine { s.line with breakDeclared := false }.hunt
      if s.line.breakDeclared then .next (s2.setCalls { s2.calls with breakGuardT := false }) else .next s2
    else .next s1

/-- LINE_BREAK (R26): the break timer expires in SPACING-HOLD. -/
def execLineBreak (s : State) : Result :=
  if s.line.rx = .spacingHold ∧ s.line.breakDeclared = false then .next (kick (declareBreak s)) else .next s

/-- LINE_RATE (R20). -/
def execLineRate (s : State) : Result :=
  match s.line.pendingRate with
  | some r => if s.line.rateFree then .next (kick (makeRate r s)) else .next s
  | none => .next s

/-- CHARACTER_END (R34, R35, R43). -/
def execCharacterEnd (s : State) : Result :=
  if s.line.txChar.isSome then .next (charEnd s) else .next s

/-- RELEASE_INTERVAL_EXPIRY (R40). -/
def execReleaseIntervalExpiry (s : State) : Result :=
  if s.line.releaseRun.isSome then .next (kick (s.setLine ({ s.line with releaseRun := none }.release .keyboard)))
  else .next s

end Sys2Proof.Machine
end

