-- ==== Sys2Proof/Machine/ResetOps.lean ====
section
/-! DEFINITION. Cold and warm reset (R45, R60, R79, R106, R107, R125, R140, R152, R160, R181, R189). -/

namespace Sys2Proof.Machine

/-- A record after a warm reset (R107). -/
def Record.afterWarm (clock : Word) (r : Record) : Record :=
  { r with
    state := if r.state = .opened then .incomplete else r.state
    closedAt := if r.state = .opened then some clock else r.closedAt
    holder := none
    readers := 0
    delivery := if r.delivery = .sending then .ready else r.delivery }

/-- The Traffic Store after a warm reset (R107). -/
def Store.afterWarm (t : Store) : Store :=
  { t with
    directory := t.directory.map (Record.afterWarm t.clock)
    slotLine := none
    slotKeyboard := none
    slotS := none
    slotX := none
    unstoredMark := false
    scrubPos := 511 }

/-- Every block but the store after a reset, before the events of its end: the pins stand as they are, an identity operation
in flight has been cut, the transaction in progress at each port is discarded (R182), and the queue of commands, which are taken
after the reset, is kept (log entry 1). -/
def State.afterReset (t : Store) (s : State) : State where
  pins := s.pins
  line := .afterReset s.pins.lineMark
  kb := .afterReset
  dist := .afterReset
  store := t
  ch0 := none
  ch1 := none
  printer := .afterReset s.printer.paperOut
  punch := .afterReset s.punch.switchOff s.punch.tapeLow
  ident := s.ident.cut s.freeCount
  calls := .afterReset
  sPort := .afterReset s.sPort.selected
  xPort := .afterReset s.xPort.selected
  freeCount := if s.ident.programming then s.freeCount + 1 else s.freeCount
  pending := s.pending

/-- What the punch's pins post at the end of a reset (R152). -/
def punchResetEvents (p : Punch) : List Event :=
  (if p.tapeLow then [.punchTapeLow 500] else []) ++ (if p.switchOff then [.punchOff .switch] else [])

/-- The events of the end of a reset (R161, R152, R189). -/
def resetEnd (s : State) : State :=
  let s1 := loadLatch s
  postAll (punchResetEvents s1.punch) s1

/-- A cold reset (R106 and the reset tables). -/
def coldResetState (s : State) : State := resetEnd (State.afterReset .afterCold s)

/-- A warm reset with its cause (R107, R185, R189). -/
def warmResetState (cause : ResetCause) (s : State) : State :=
  resetEnd (post (.restarted cause) (State.afterReset s.store.afterWarm s))

end Sys2Proof.Machine
end

