-- ==== Sys2Proof/Machine/PortCommands.lean ====
section
/-! DEFINITION. Resets and the commands of the ports themselves (chapter 11): COLD_RESET, WARM_RESET, RESTART, MALFORMED_REQUEST,
NOP, STATUS, READ_EVENTS, SET_EVENT_MASK, SET_CLOCK. -/

namespace Sys2Proof.Machine

/-- COLD_RESET (R106). -/
def execColdReset (s : State) : Result := .next (coldResetState s)

/-- WARM_RESET (R107, R185): a pulse on the RESET pin. -/
def execWarmReset (s : State) : Result := .next (warmResetState .pin s)

/-- RESTART (R185). Its answer is never placed: both holders are emptied. -/
def execRestart (p : Port) (s : State) : Result := .next (warmResetState (.port p) s)

/-- MALFORMED_REQUEST (R182, R184): the bytes of a malformed request are answered REFUSED FORMAT with their command code, and
a malformed APPEND TEXT with its count of 0 (R94, R184; log entry 42). Bytes that carry no request, or that
carry a command, are not one and change nothing (log entry 25). -/
def execMalformedRequest (p : Port) (bytes : List Byte) (s : State) : Result :=
  match frameRequest p ⟨0, false⟩ bytes with
  | .malformed code => .next (s.refuse p code .format)
  | .nothing => .next s
  | .command _ => .next s

/-- NOP (R183). -/
def execNop (p : Port) (s : State) : Result := .next (s.done p 0x01 [])

/-- The STATUS result (R188, R193). -/
def statusBytes (p : Port) (s : State) : List Byte :=
  [(s.port p).flags.toByte, byteOf (s.port p).queue.length, byteOf s.line.rx.index, boolOf s.line.txChar.isSome,
   byteOf s.calls.state.index, byteOf s.printer.engine.index, byteOf s.punch.engine.index,
   byteOf (chanStateIndex s.ch0), byteOf (chanStateIndex s.ch1),
   optByte (s.ident.op.map IdOp.kindIndex), optByte (s.ident.op.bind IdOp.slot?)]

/-- STATUS (R188): the flags as they stand are returned and cleared in this port's copy. -/
def execStatus (p : Port) (s : State) : Result :=
  .next ((s.setPort p { s.port p with flags := .clear }).done p 0x02 (statusBytes p s))

/-- READ_EVENTS (R187). -/
def execReadEvents (p : Port) (count : Byte) (s : State) : Result :=
  let n := count.toNat
  if 1 ≤ n ∧ n ≤ 4 then
    let q := (s.port p).queue
    .next ((s.setPort p { s.port p with queue := q.drop n }).done p 0x03
      (byteOf (q.drop n).length :: (q.take n).flatMap Event.bytes))
  else .next (s.refuse p 0x03 .range)

/-- SET_EVENT_MASK (R187, R194). -/
def execSetEventMask (p : Port) (mask : BitVec 48) (s : State) : Result :=
  if maskNamesNoKind mask then .next (s.refuse p 0x04 .range)
  else .next ((s.setPort p { s.port p with mask := mask }).done p 0x04 (maskBytes mask))

/-- SET_CLOCK (R105). -/
def execSetClock (p : Port) (seconds : Word) (s : State) : Result :=
  .next ((s.setStore { s.store with clock := seconds }).done p 0x06 (wordOf seconds))

end Sys2Proof.Machine
end

