-- ==== Sys2Proof/Machine/PrinterCommands.lean ====
section
/-! DEFINITION. The Page Printer's commands and events (chapter 7): SET_FORMAT, PRINTER_RESTART, PRINT_COMPLETION,
CARRIAGE_HOME, CARRIAGE_JAM, PAPER_OUT, PAPER_PRESENT, BELL_EXPIRY. -/

namespace Sys2Proof.Machine

/-- A present end-of-line mode or CR-adds-LF holds a value outside its two (R128). -/
def formatRefused (presence mode crAddsLf : Byte) : Bool :=
  (present presence 3 && (onOff mode).isNone) || (present presence 4 && (onOff crAddsLf).isNone)

/-- The end-of-line mode a byte names (R128). -/
def eolModeOf (b : Byte) : Option EolMode := if b = 0 then some .hold else if b = 1 then some .wrap else none

/-- A present number of a SET FORMAT. -/
def presentNat (presence : Byte) (n : Nat) (b : Byte) : Option Nat := if present presence n then some b.toNat else none

/-- The record a SET FORMAT forms: from the pending record if it waits, else from the active one (R128). -/
def Printer.formed (r : Printer) (presence lineLength margin spacing mode crAddsLf : Byte) : Format :=
  formFormat (if r.waiting then r.pending else r.active) (presentNat presence 0 lineLength) (presentNat presence 1 margin)
    (presentNat presence 2 spacing) (if present presence 3 then eolModeOf mode else none)
    (if present presence 4 then onOff crAddsLf else none)

/-- At least one of the five fields is present (R128). -/
def anyField (presence : Byte) : Bool := presence.extractLsb' 0 5 != 0

/-- The SET FORMAT result (R128; log entry 18). -/
def Printer.formatBytes (r : Printer) : List Byte :=
  r.active.bytes ++ r.pending.bytes ++ [boolOf r.waiting, byteOf r.engine.index, byteOf r.queue.length, byteOf r.column,
    boolOf r.paperOut, byteOf r.followOn.index]

/-- SET_FORMAT (R128, R129). -/
def execSetFormat (p : Port) (presence lineLength margin spacing mode crAddsLf : Byte) (s : State) : Result :=
  if formatRefused presence mode crAddsLf then .next (s.refuse p 0x50 .range)
  else if anyField presence = false then .next (s.done p 0x50 s.printer.formatBytes)
  else
    let f := s.printer.formed presence lineLength margin spacing mode crAddsLf
    let s1 := if s.printer.loadsAtOnce then post .formatLoaded (s.setPrinter (s.printer.loadNow f))
      else s.setPrinter (s.printer.storePending f)
    .next (s1.done p 0x50 s1.printer.formatBytes)

/-- PRINTER_RESTART (R138). -/
def execPrinterRestart (p : Port) (s : State) : Result :=
  if s.printer.engine = .fault then
    if s.printer.restart then .next (s.refuse p 0x51 .busy)
    else .next ((s.setPrinter { s.printer with
      restart := true, op := some (.carriageReturn .restart none none) }).begun p 0x51 [])
  else .next (s.done p 0x51 [])

/-- The engine proceeds after an operation, and PRINTER STOPPED is posted where it stops (R127, R135). -/
def printerProceed (s : State) : State :=
  let e := s.printer.proceed
  if e.2 then post .printerStopped (s.setPrinter e.1) else s.setPrinter e.1

/-- The engine becomes IDLE, posts PRINTER READY and goes on with what it owes or the queue (R136, R138). -/
def printerReady (s : State) : State :=
  let r : Printer := { s.printer with engine := .idle, op := none }
  let r1 := if r.followOn = .none then r.takeFrom r.queue else r.beginFollowOn
  (post .printerReady s).setPrinter r1

/-- A carriage return with its target fixed is complete (R129, R131, R138). -/
def returnComplete (cause : CrCause) (t : CrTarget) (s : State) : State :=
  let s1 := s.setPrinter (s.printer.finishReturn cause t)
  let s2 := if t.fromPending then post .formatLoaded s1 else s1
  if cause = .restart then
    let s3 := s2.setPrinter { s2.printer with restart := false }
    if s3.printer.paperOut then post .printerStopped (s3.setPrinter { s3.printer with engine := .stopped })
    else printerReady s3
  else printerProceed s2

/-- PRINT_COMPLETION (R127): the operation in flight completes. A carriage return completes only once home has been reached. DESIGN
CHOICE (log entry 52): the entry this frees goes first to the grant holder's symbol that waits for it and the transmitter, before a
RECEIVE symbol of the same instant too (R70; kick). -/
def execPrintCompletion (s : State) : Result :=
  match s.printer.op with
  | some (.advance _) => .next (kick (printerProceed (s.setPrinter s.printer.stepColumn)))
  | some (.lineFeed _) => .next (kick (printerProceed s))
  | some (.marginMove _) => .next (kick (printerProceed s))
  | some (.carriageReturn cause _ (some t)) => .next (kick (returnComplete cause t s))
  | some (.carriageReturn _ _ none) => .next s
  | none => .next s

/-- CARRIAGE_HOME (R129, R131): the jam timer stops and the target format is fixed. -/
def execCarriageHome (s : State) : Result := .next (s.setPrinter s.printer.fixTarget)

/-- CARRIAGE_JAM (R137, R138): the jam timer of a carriage return that has not reached home expires. -/
def execCarriageJam (s : State) : Result :=
  match s.printer.op with
  | some (.carriageReturn _ _ none) =>
    let s1 := post .printerFault (s.setPrinter { s.printer with
      engine := .fault, op := none, followOn := .none, restart := false })
    .next (kick (sinkEntered s1))
  | _ => .next s

/-- PAPER_OUT (R135). -/
def execPaperOut (s : State) : Result :=
  let s1 := s.setPrinter { s.printer with paperOut := true }
  if s.printer.engine = .idle then .next (post .printerStopped (s1.setPrinter { s1.printer with engine := .stopped }))
  else .next s1

/-- PAPER_PRESENT (R136). -/
def execPaperPresent (s : State) : Result :=
  let s1 := s.setPrinter { s.printer with paperOut := false }
  if s.printer.engine = .stopped then .next (kick (printerReady s1)) else .next s1

/-- BELL_EXPIRY (R134). -/
def execBellExpiry (s : State) : Result := .next (s.setPrinter { s.printer with bell := false })

end Sys2Proof.Machine
end

