-- ==== Sys2Proof/Machine/PunchCommands.lean ====
section
/-! DEFINITION. The Tape Punch's commands and events (chapter 8): PUNCH_FEED, PUNCH_ON, PUNCH_OFF, PUNCH_RESUME,
CONFIGURE_PUNCH, PUNCH_ROW_COMPLETION, PUNCH_TAPE_OUT, TAPE_LOW, TAPE_PRESENT, PUNCH_SWITCH_OFF, PUNCH_SWITCH_ON. -/

namespace Sys2Proof.Machine

/-- BLANK rows join the tail of the queue, and an IDLE engine takes the head (R143, R149). -/
def Punch.feed (r : Punch) (n : Nat) : Punch :=
  let q := { r with queue := r.queue ++ List.replicate n symBlank }
  if q.engine = .idle then q.take else q

/-- PUNCH_FEED (R149): a count above 255 is clamped. -/
def execPunchFeed (p : Port) (count : Half) (s : State) : Result :=
  let n := min 255 count.toNat
  if n = 0 then .next (s.refuse p 0x58 .range)
  else if s.punch.engine = .off then .next (s.refuse p 0x58 .state)
  else if punchQueueSize < s.punch.queue.length + n then .next (s.refuse p 0x58 .full)
  else
    let s1 := s.setPunch (s.punch.feed n)
    .next (s1.done p 0x58 (halfOf n ++ [byteOf s1.punch.queue.length]))

/-- A mark of R148 is cleared: the engine may leave OFF, with PUNCH READY where it becomes IDLE. -/
def punchClear (cause : OffCause) (s : State) : State :=
  let e := s.punch.clearOff cause
  if e.2 then post .punchReady (s.setPunch e.1) else s.setPunch e.1

/-- The engine has entered OFF with a cause, or not: the event, and the channels that meet the permanent refusal (R119, R148). -/
def punchEntered (cause : Option OffCause) (s : State) : State :=
  match cause with
  | some k => sinkEntered (post (.punchOff k) s)
  | none => s

/-- A mark of R148 is set: an engine IDLE or in TAPE-OUT enters OFF. -/
def punchSet (cause : OffCause) (s : State) : State :=
  let e := s.punch.setOff cause
  punchEntered e.2 (s.setPunch e.1)

/-- PUNCH_ON (R148). The report is read once the engine has taken the head, before a symbol that moves in the same instant joins
the queue (log entry 44). -/
def execPunchOn (p : Port) (s : State) : Result :=
  let s1 := punchClear .command s
  .next (kick (s1.done p 0x59 s1.punch.report))

/-- PUNCH_OFF (R148). -/
def execPunchOff (p : Port) (s : State) : Result :=
  let s1 := punchSet .command s
  .next (kick (s1.done p 0x5A s1.punch.report))

/-- The tape-out mark is cleared: punch case UNKNOWN, and an engine in TAPE-OUT goes on; the Bool says that it became IDLE
(R147). -/
def Punch.resumed (r : Punch) : Punch × Bool :=
  let q := { r with tapeOut := false, caseNow := .unknown }
  if q.engine = .tapeOut then ({ q with engine := .idle }.take, true) else (q, false)

/-- PUNCH_RESUME (R147): every response, the refusal too, carries the engine state, the marks and the queue count, read once the
engine has taken the head, before a symbol that moves in the same instant joins the queue (log entry 44). -/
def execPunchResume (p : Port) (s : State) : Result :=
  if s.punch.tapeOut then
    if s.punch.tapeLow then .next (s.answer p ⟨0x5B, .refused, some .state, s.punch.report⟩)
    else
      let e := s.punch.resumed
      let s1 := if e.2 then post .punchReady (s.setPunch e.1) else s.setPunch e.1
      .next (kick (s1.done p 0x5B s1.punch.report))
  else .next (s.done p 0x5B s.punch.report)

/-- The CONFIGURE PUNCH result (R150). The operation in flight reads as the number of its rows still to complete, so that the
second row of two reads 1 (log entry 43); the counter while it is not running reads 0 in both its bytes (log entry 17). -/
def Punch.configBytes (r : Punch) : List Byte :=
  [boolOf r.counter.isSome] ++ halfOf r.allowance
    ++ [byteOf r.engine.index, if r.rows = [] then absent else byteOf r.rows.length,
        boolOf r.switchOff, boolOf r.portOff, boolOf r.tapeLow, boolOf r.tapeOut]
    ++ halfOf (r.counter.getD 0) ++ [byteOf r.queue.length] ++ halfOf r.rowsPunched

/-- CONFIGURE_PUNCH (R150): the count is returned as it stood before the clear option sets it to 0. -/
def execConfigurePunch (p : Port) (presence : Byte) (allowance : Half) (clear : Byte) (s : State) : Result :=
  match onOff clear with
  | none => .next (s.refuse p 0x5C .range)
  | some c =>
    let r := { s.punch with allowance := if present presence 0 then clamp 0 4000 allowance.toNat else s.punch.allowance }
    .next ((s.setPunch { r with rowsPunched := if c then 0 else r.rowsPunched }).done p 0x5C r.configBytes)

/-- The tape-out mark is set and PUNCH TAPE-OUT posted (R145, R146). -/
def tapeRunsOut (s : State) : State := post .punchTapeOut (s.setPunch s.punch.setTapeOut)

/-- PUNCH_ROW_COMPLETION (R143 to R146): the row is counted, and the operation goes on to its next row or ends. DESIGN
CHOICE (log entry 52): the entry this frees goes first to the grant holder's symbol that waits for it and the transmitter, before a
RECEIVE symbol of the same instant too (R70; kick). -/
def execPunchRowCompletion (s : State) : Result :=
  match s.punch.rows with
  | [] => .next s
  | _ :: rest =>
    let e := s.punch.countRow
    let s1 := s.setPunch { e.1 with rows := rest }
    let s2 := if e.2 then tapeRunsOut s1 else s1
    match rest with
    | _ :: _ => .next (s2.setPunch s2.punch.beginRow)
    | [] =>
      let f := s2.punch.endOperation
      .next (kick (punchEntered f.2 (s2.setPunch f.1)))

/-- PUNCH_TAPE_OUT (R145): the counter stands at 0 and the mark is not set yet (log entry 27). -/
def execPunchTapeOut (s : State) : Result :=
  if s.punch.counter = some 0 ∧ s.punch.tapeOut = false then .next (tapeRunsOut s) else .next s

/-- TAPE_LOW (R145): the pin turns low; a counter loaded with 0 sets the tape-out mark at once. -/
def execTapeLow (s : State) : Result :=
  if s.punch.tapeLow then .next s
  else
    let a := s.punch.allowance
    let s1 := post (.punchTapeLow a) (s.setPunch { s.punch with tapeLow := true, counter := some a })
    .next (if a = 0 then tapeRunsOut s1 else s1)

/-- TAPE_PRESENT (R145): the pin turns present. -/
def execTapePresent (s : State) : Result := .next (s.setPunch { s.punch with tapeLow := false, counter := none })

/-- PUNCH_SWITCH_OFF (R148). -/
def execPunchSwitchOff (s : State) : Result := .next (kick (punchSet .switch s))

/-- PUNCH_SWITCH_ON (R148). -/
def execPunchSwitchOn (s : State) : Result := .next (kick (punchClear .switch s))

end Sys2Proof.Machine
end

