-- ==== Sys2Proof/Machine/RoutingCommands.lean ====
section
/-! DEFINITION. The Distributor's commands (chapter 4): ROUTE, SET_TRIGGER, SET_GATING. -/

namespace Sys2Proof.Machine

/-- The four rows, in the order of R63. -/
inductive RouteRow where
  | receive
  | sent
  | line
  | loc
deriving DecidableEq, Repr

/-- The row a byte names (R64). -/
def routeRowOf (b : Byte) : Option RouteRow :=
  match b.toNat with
  | 0 => some .receive
  | 1 => some .sent
  | 2 => some .line
  | 3 => some .loc
  | _ => none

/-- The sinks R63 permits in a row. -/
def RouteRow.permitted : RouteRow → SinkSet
  | .receive => ⟨false, true, true, true⟩
  | .sent => ⟨false, true, true, false⟩
  | .line => ⟨true, true, true, true⟩
  | .loc => ⟨true, true, true, true⟩

/-- A row of the table. -/
def Distributor.row (d : Distributor) : RouteRow → SinkSet
  | .receive => d.rowReceive
  | .sent => d.rowSent
  | .line => d.rowLine
  | .loc => d.rowLocal

/-- The table with one row changed. -/
def Distributor.setRow (d : Distributor) (r : RouteRow) (k : SinkSet) : Distributor := match r with
  | .receive => { d with rowReceive := k }
  | .sent => { d with rowSent := k }
  | .line => { d with rowLine := k }
  | .loc => { d with rowLocal := k }

/-- The result of a function on a row and a mask: REPLACE, ADD, REMOVE, TOGGLE (R64). -/
def routeResult (function : Byte) (row mask : SinkSet) : Option SinkSet :=
  match function.toNat with
  | 0 => some mask
  | 1 => some (row.union mask)
  | 2 => some (row.diff mask)
  | 3 => some (row.toggle mask)
  | _ => none

/-- The set a ROUTE forms, none where R64 refuses it. -/
def routeForms (d : Distributor) (row function mask : Byte) : Option (RouteRow × SinkSet) :=
  match routeRowOf row with
  | none => none
  | some r =>
    if fourSinks mask then
      match routeResult function (d.row r) (SinkSet.ofByte mask) with
      | some k => if r.permitted.contains k then some (r, k) else none
      | none => none
    else none

/-- The row of the keyboard mode in force. -/
def modeRow (m : KbMode) : RouteRow := match m with
  | .line => .line
  | .loc => .loc

/-- ROUTE (R64). Where the row of the mode in force loses TRANSMITTER, KEYBOARD leaves the arbiter (R40); toward the new row of the
mode in force the head is offered afresh (R53). -/
def execRoute (p : Port) (row function mask : Byte) (s : State) : Result :=
  match routeForms s.dist row function mask with
  | none => .next (s.refuse p 0x18 .range)
  | some (r, k) =>
    let lost := r = modeRow s.kb.mode ∧ (s.dist.row r).transmitter = true ∧ k.transmitter = false
    let s1 := s.setDist (s.dist.setRow r k)
    let s2 := if lost then leave .keyboard s1 else s1
    let s3 := if r = modeRow s.kb.mode then offerHead s2 else s2
    .next (kick (s3.done p 0x18 [k.toByte]))

/-- The entry a SET TRIGGER writes: none where R75 refuses it, an empty entry for an empty pattern with the enable off. -/
def triggerForms (entry enable action : Byte) (pattern : List Byte) : Option (Option Trigger) :=
  match onOff enable, triggerActionOf action, checkPattern pattern with
  | some en, some act, some ps =>
    if 3 < entry.toNat ∨ (ps = [] ∧ en = true) then none
    else if ps = [] then some none
    else some (some ⟨en, ps, act⟩)
  | _, _, _ => none

/-- An entry as it stands: enable, pattern run, action (R75; log entry 18). -/
def triggerBytes (e : Option Trigger) : List Byte :=
  match e with
  | none => [absent, 0, absent]
  | some t => [boolOf t.enable] ++ runOf (t.pattern.map PatPos.toByte) ++ [byteOf t.action.index]

/-- SET_TRIGGER (R75); a pattern of more than 8 positions does not fit and is refused FORMAT (R182). -/
def execSetTrigger (p : Port) (entry enable action : Byte) (pattern : List Byte) (s : State) : Result :=
  if 8 < pattern.length then .next (s.refuse p 0x19 .format)
  else match triggerForms entry enable action pattern with
    | none => .next (s.refuse p 0x19 .range)
    | some e =>
      .next ((s.setDist { s.dist with triggers := s.dist.triggers.set entry.toNat e }).done p 0x19 (triggerBytes e))

/-- SET_GATING (R72): answered with GATED and the gate state, OPEN 0 or SHUT 1. -/
def execSetGating (p : Port) (gated : Byte) (s : State) : Result :=
  match onOff gated with
  | none => .next (s.refuse p 0x1A .range)
  | some g => .next ((s.setDist { s.dist with gated := g }).done p 0x1A [boolOf g, boolOf (!s.dist.gateOpen)])

end Sys2Proof.Machine
end

