-- ==== Sys2Proof/Machine/StoreCommands.lean ====
section
/-! DEFINITION. The Traffic Store's commands and events (chapter 5): CREATE, APPEND_TEXT, CLOSE, READ_TEXT, READ_RECORD,
SET_DELIVERY, DELETE, CLEAR_OWED, SCRUB, SECONDS_TICK. -/

namespace Sys2Proof.Machine

/-- The port that holds an OPEN message is the other port (R96, R103). -/
def heldElsewhere (p : Port) (r : Record) : Bool := match r.holder with
  | some (.port q) => q != p
  | _ => false

/-- The holder a CREATE names: the commanding port or KEYBOARD (R93). -/
def createHolder (p : Port) (choice : Byte) : Option Holder :=
  if choice = 0 then some (.port p) else if choice = 1 then some .keyboard else none

/-- CREATE (R93). -/
def execCreate (p : Port) (choice : Byte) (s : State) : Result :=
  match createHolder p choice with
  | none => .next (s.refuse p 0x30 .range)
  | some h =>
    if (s.store.slot h).isSome then .next (s.refuse p 0x30 .busy)
    else if s.store.createAllowed then
      .next ((s.setStore (s.store.createMsg .prepared h)).done p 0x30 (halfOf s.store.nextFree))
    else .next (s.refuse p 0x30 .full)

/-- APPEND_TEXT (R94); a run that is empty or longer than 32 does not fit and is refused FORMAT (R182). Every refusal
carries the count of symbols accepted (R184): the one reached before FULL, and 0 with every other reason (State.refuse). -/
def execAppendText (p : Port) (message : Half) (text : List Byte) (s : State) : Result :=
  let n := message.toNat
  if text = [] ∨ 32 < text.length then .next (s.refuse p 0x31 .format)
  else match findMsg n s with
    | none => .next (s.refuse p 0x31 .noSuch)
    | some r =>
      if r.state ≠ .opened then .next (s.refuse p 0x31 .state)
      else if r.holder ≠ some (.port p) then .next (s.refuse p 0x31 .notHolder)
      else match checkSymbols text with
        | none => .next (s.refuse p 0x31 .range)
        | some ys =>
          let e := appendAll n ys s
          let a : Answer := if e.2 = ys.length then ⟨0x31, .done, none, [byteOf e.2]⟩
            else ⟨0x31, .refused, some .full, [byteOf e.2]⟩
          .next (kick (e.1.answer p a))

/-- CLOSE (R96). -/
def execClose (p : Port) (message : Half) (s : State) : Result :=
  let n := message.toNat
  match findMsg n s with
  | none => .next (s.refuse p 0x32 .noSuch)
  | some r =>
    if r.state ≠ .opened then .next (s.refuse p 0x32 .state)
    else if heldElsewhere p r then .next (s.refuse p 0x32 .notHolder)
    else .next (kick ((closeMessage n .closed s).done p 0x32 []))

/-- READ_TEXT (R97). -/
def execReadText (p : Port) (message first : Half) (count : Byte) (s : State) : Result :=
  let n := message.toNat
  match findMsg n s with
  | none => .next (s.refuse p 0x33 .noSuch)
  | some r =>
    if count.toNat < 1 ∨ 32 < count.toNat ∨ r.length < first.toNat then .next (s.refuse p 0x33 .range)
    else
      let e := readSpans n (spans r.chain 0 first.toNat (min count.toNat (r.length - first.toNat))) s
      .next (e.1.answer p ⟨0x33, if e.2.2 then .damaged else .done, none, runOf (e.2.1.map Symbol.toByte)⟩)

/-- The record that carries a number, with its directory index. -/
def Store.indexed (t : Store) (n : Nat) : Option (Record × Nat) := t.directory.zipIdx.find? (fun q => q.1.number == n)

/-- READ_RECORD (R98). -/
def execReadRecord (p : Port) (selector : Byte) (value : Half) (clear : Byte) (s : State) : Result :=
  match onOff clear with
  | none => .next (s.refuse p 0x34 .range)
  | some c =>
    match selector.toNat with
    | 0 =>
      match s.store.directory[value.toNat]? with
      | some r => .next (s.done p 0x34 (r.bytes value.toNat))
      | none => .next (s.refuse p 0x34 .noSuch)
    | 1 =>
      match s.store.indexed value.toNat with
      | some q => .next (s.done p 0x34 (q.1.bytes q.2))
      | none => .next (s.refuse p 0x34 .noSuch)
    | 2 =>
      let t := if c then { s.store with corrected := 0, unstored := 0 } else s.store
      .next ((s.setStore t).done p 0x34 s.store.summary)
    | _ => .next (s.refuse p 0x34 .range)

/-- The digits of a destination, each 0 to 9 (R99). -/
def digitsOf (bs : List Byte) : Option (List Nat) :=
  if bs.all (fun b => decide (b.toNat ≤ 9)) then some (bs.map (·.toNat)) else none

/-- The record a SET DELIVERY leaves: none where R99 refuses RANGE. Absent items leave their fields as they stand. -/
def deliveryForms (presence option : Byte) (identity destination : List Byte) (r : Record) : Option Record :=
  let ident := if present presence 0 then (if identity.length ≤ 20 then checkPattern identity else none) else some r.expected
  let dest := if present presence 1 then (if destination.length ≤ 16 then digitsOf destination else none)
    else some r.destination
  let deliv := if present presence 2 then (deliveryOptionOf option).map (fun d => (d, 0)) else some (r.delivery, r.attempts)
  match ident, dest, deliv with
  | some i, some d, some o => some { r with expected := i, destination := d, delivery := o.1, attempts := o.2 }
  | _, _, _ => none

/-- The three fields of a SET DELIVERY's answer (R99; log entry 18). -/
def Record.deliveryBytes (r : Record) : List Byte :=
  runOf (r.expected.map PatPos.toByte) ++ runOf (r.destination.map byteOf) ++ [byteOf r.delivery.index]

/-- SET_DELIVERY (R99). -/
def execSetDelivery (p : Port) (message : Half) (presence option : Byte) (identity destination : List Byte) (s : State) :
    Result :=
  let n := message.toNat
  match findMsg n s with
  | none => .next (s.refuse p 0x35 .noSuch)
  | some r =>
    if r.kind = .received then .next (s.refuse p 0x35 .state)
    else if r.delivery = .sending then .next (s.refuse p 0x35 .busy)
    else match deliveryForms presence option identity destination r with
      | none => .next (s.refuse p 0x35 .range)
      | some r' => .next ((updateMsg n (fun _ => r') s).done p 0x35 r'.deliveryBytes)

/-- The store without a message: its blocks released, its holder's slot emptied, its record gone (R103). -/
def Store.remove (t : Store) (r : Record) : Store :=
  let t1 := t.releaseChain r.chain
  let t2 := match r.holder with
    | some h => t1.setSlot h none
    | none => t1
  { t2 with directory := t2.directory.filter (fun q => q.number ≠ r.number) }

/-- DELETE (R103): answered with the numbers of blocks freed and retired. -/
def execDelete (p : Port) (message : Half) (s : State) : Result :=
  let n := message.toNat
  match findMsg n s with
  | none => .next (s.refuse p 0x36 .noSuch)
  | some r =>
    if 0 < r.readers ∨ r.delivery = .sending ∨ (r.state = .opened ∧ r.holder = some .line) then
      .next (s.refuse p 0x36 .busy)
    else if r.state = .opened ∧ heldElsewhere p r = true then .next (s.refuse p 0x36 .notHolder)
    else
      let retired := (r.chain.filter (·.damaged)).length
      let s1 := drainTest (post (.messageDeleted n) (s.setStore (s.store.remove r)))
      .next (kick (s1.done p 0x36 (halfOf (r.chain.length - retired) ++ halfOf retired)))

/-- The flags byte of a CLEAR OWED names PRINT OWED (bit 2), PUNCH OWED (bit 3) or both, and nothing else (R101, R192). -/
def owedFlags (flags : Byte) : Bool := flags = 4 ∨ flags = 8 ∨ flags = 12

/-- CLEAR_OWED (R101). -/
def execClearOwed (p : Port) (message : Half) (flags : Byte) (s : State) : Result :=
  let n := message.toNat
  match findMsg n s with
  | none => .next (s.refuse p 0x37 .noSuch)
  | some r =>
    if owedFlags flags then
      let r' : Record := { r with
        printOwed := r.printOwed && !flags.getLsbD 2, punchOwed := r.punchOwed && !flags.getLsbD 3 }
      .next ((drainTest (updateMsg n (fun _ => r') s)).done p 0x37 [r'.flagsByte])
    else .next (s.refuse p 0x37 .range)

/-- SCRUB (R104): the next block IN USE is read, and the position set to it. -/
def execScrub (s : State) : Result :=
  match s.store.nextScrub with
  | none => .next s
  | some (b, n, idx) =>
    let t := (readBlock n idx .scrubber none s).state
    .next (t.setStore { t.store with scrubPos := b })

/-- SECONDS_TICK (R105). -/
def execSecondsTick (s : State) : Result := .next (s.setStore { s.store with clock := s.store.clock + 1 })

end Sys2Proof.Machine
end

