-- ==== Sys2Proof/Machine/Dispatch.lean ====
section
/-! DEFINITION. One arm per command or event, each a direct call of its meaning. -/

namespace Sys2Proof.Machine

def exec (i : Instr) (s : State) : Host.Outcome State Fault Refusal :=
  match i with
  | .coldReset => Sys2Proof.Machine.execColdReset s
  | .warmReset => Sys2Proof.Machine.execWarmReset s
  | .malformedRequest port bytes => Sys2Proof.Machine.execMalformedRequest port bytes s
  | .nop port => Sys2Proof.Machine.execNop port s
  | .status port => Sys2Proof.Machine.execStatus port s
  | .readEvents port count => Sys2Proof.Machine.execReadEvents port count s
  | .setEventMask port mask => Sys2Proof.Machine.execSetEventMask port mask s
  | .restart port => Sys2Proof.Machine.execRestart port s
  | .setClock port seconds => Sys2Proof.Machine.execSetClock port seconds s
  | .configureLine port presence rate stop breakTime threshold txUsos rxUsos release spaceMs => Sys2Proof.Machine.execConfigureLine port presence rate stop breakTime threshold txUsos rxUsos release spaceMs s
  | .receiveOn port => Sys2Proof.Machine.execReceiveOn port s
  | .receiveOff port => Sys2Proof.Machine.execReceiveOff port s
  | .transmitOn port => Sys2Proof.Machine.execTransmitOn port s
  | .transmitOff port => Sys2Proof.Machine.execTransmitOff port s
  | .readLineQuality port => Sys2Proof.Machine.execReadLineQuality port s
  | .route port row function mask => Sys2Proof.Machine.execRoute port row function mask s
  | .setTrigger port entry enable action pattern => Sys2Proof.Machine.execSetTrigger port entry enable action pattern s
  | .setGating port gated => Sys2Proof.Machine.execSetGating port gated s
  | .loadKeymap port plane first entries => Sys2Proof.Machine.execLoadKeymap port plane first entries s
  | .keyboardLock port => Sys2Proof.Machine.execKeyboardLock port s
  | .keyboardUnlock port => Sys2Proof.Machine.execKeyboardUnlock port s
  | .setKeyboardMode port mode => Sys2Proof.Machine.execSetKeyboardMode port mode s
  | .configureKeyboard port count => Sys2Proof.Machine.execConfigureKeyboard port count s
  | .create port choice => Sys2Proof.Machine.execCreate port choice s
  | .appendText port message text => Sys2Proof.Machine.execAppendText port message text s
  | .close port message => Sys2Proof.Machine.execClose port message s
  | .readText port message first count => Sys2Proof.Machine.execReadText port message first count s
  | .readRecord port selector value clear => Sys2Proof.Machine.execReadRecord port selector value clear s
  | .setDelivery port message presence option identity destination => Sys2Proof.Machine.execSetDelivery port message presence option identity destination s
  | .delete port message => Sys2Proof.Machine.execDelete port message s
  | .clearOwed port message flags => Sys2Proof.Machine.execClearOwed port message flags s
  | .startChannel port channel message position sinks trigger => Sys2Proof.Machine.execStartChannel port channel message position sinks trigger s
  | .hold port channel => Sys2Proof.Machine.execHold port channel s
  | .resume port channel => Sys2Proof.Machine.execResume port channel s
  | .stopChannel port channel => Sys2Proof.Machine.execStopChannel port channel s
  | .readChannel port channel => Sys2Proof.Machine.execReadChannel port channel s
  | .setFormat port presence lineLength margin spacing mode crAddsLf => Sys2Proof.Machine.execSetFormat port presence lineLength margin spacing mode crAddsLf s
  | .printerRestart port => Sys2Proof.Machine.execPrinterRestart port s
  | .printOwed port => Sys2Proof.Machine.execPrintOwed port s
  | .punchFeed port count => Sys2Proof.Machine.execPunchFeed port count s
  | .punchOn port => Sys2Proof.Machine.execPunchOn port s
  | .punchOff port => Sys2Proof.Machine.execPunchOff port s
  | .punchResume port => Sys2Proof.Machine.execPunchResume port s
  | .configurePunch port presence allowance clear => Sys2Proof.Machine.execConfigurePunch port presence allowance clear s
  | .readSlot port slot => Sys2Proof.Machine.execReadSlot port slot s
  | .programSlot port writeEnable slot first text => Sys2Proof.Machine.execProgramSlot port writeEnable slot first text s
  | .commitSlot port writeEnable slot length => Sys2Proof.Machine.execCommitSlot port writeEnable slot length s
  | .protect port writeEnable => Sys2Proof.Machine.execProtect port writeEnable s
  | .callIn port => Sys2Proof.Machine.execCallIn port s
  | .callOut port => Sys2Proof.Machine.execCallOut port s
  | .callCleared port => Sys2Proof.Machine.execCallCleared port s
  | .autoSend port message => Sys2Proof.Machine.execAutoSend port message s
  | .sendAnswerBack port => Sys2Proof.Machine.execSendAnswerBack port s
  | .sendWru port => Sys2Proof.Machine.execSendWru port s
  | .configureAnswering port presence mode identify settle idle mutilation attempts autoDrain wruResponse => Sys2Proof.Machine.execConfigureAnswering port presence mode identify settle idle mutilation attempts autoDrain wruResponse s
  | .startEdge => Sys2Proof.Machine.execStartEdge s
  | .stopSample => Sys2Proof.Machine.execStopSample s
  | .markReturn => Sys2Proof.Machine.execMarkReturn s
  | .lineBreak => Sys2Proof.Machine.execLineBreak s
  | .lineRate => Sys2Proof.Machine.execLineRate s
  | .characterEnd => Sys2Proof.Machine.execCharacterEnd s
  | .releaseIntervalExpiry => Sys2Proof.Machine.execReleaseIntervalExpiry s
  | .keyScan seen => Sys2Proof.Machine.execKeyScan seen s
  | .keyboardDelivery => Sys2Proof.Machine.execKeyboardDelivery s
  | .channelDelivery channel => Sys2Proof.Machine.execChannelDelivery channel s
  | .printCompletion => Sys2Proof.Machine.execPrintCompletion s
  | .carriageHome => Sys2Proof.Machine.execCarriageHome s
  | .carriageJam => Sys2Proof.Machine.execCarriageJam s
  | .paperOut => Sys2Proof.Machine.execPaperOut s
  | .paperPresent => Sys2Proof.Machine.execPaperPresent s
  | .bellExpiry => Sys2Proof.Machine.execBellExpiry s
  | .punchRowCompletion => Sys2Proof.Machine.execPunchRowCompletion s
  | .punchTapeOut => Sys2Proof.Machine.execPunchTapeOut s
  | .tapeLow => Sys2Proof.Machine.execTapeLow s
  | .tapePresent => Sys2Proof.Machine.execTapePresent s
  | .punchSwitchOff => Sys2Proof.Machine.execPunchSwitchOff s
  | .punchSwitchOn => Sys2Proof.Machine.execPunchSwitchOn s
  | .scrub => Sys2Proof.Machine.execScrub s
  | .secondsTick => Sys2Proof.Machine.execSecondsTick s
  | .programCompletion => Sys2Proof.Machine.execProgramCompletion s
  | .commitCellWrite => Sys2Proof.Machine.execCommitCellWrite s
  | .protectCompletion => Sys2Proof.Machine.execProtectCompletion s
  | .protectedFailCompletion => Sys2Proof.Machine.execProtectedFailCompletion s
  | .settleExpiry => Sys2Proof.Machine.execSettleExpiry s
  | .captureStartExpiry => Sys2Proof.Machine.execCaptureStartExpiry s
  | .captureGapExpiry => Sys2Proof.Machine.execCaptureGapExpiry s
  | .idleTimerExpiry => Sys2Proof.Machine.execIdleTimerExpiry s
  | .breakGuardExpiry => Sys2Proof.Machine.execBreakGuardExpiry s
  | .clearingGuardExpiry => Sys2Proof.Machine.execClearingGuardExpiry s
  | .drainStart => Sys2Proof.Machine.execDrainStart s
  | .startCheck => Sys2Proof.Machine.execStartCheck s
  | .unitSample => Sys2Proof.Machine.execUnitSample s
  | .timedTransition slot => Sys2Proof.Machine.execTimedTransition slot s

end Sys2Proof.Machine
end

