-- ==== Sys2Proof/Machine/Outputs.lean ====
section
/-! DEFINITION. What the part drives, as functions of the state: LINE OUT (R34), LOCK LAMP (R55), the attention outputs (R186), the
bytes of data out (R183, R190), BELL (R134), needles (R133), punch magnets (R1, R143), and how long operations last (R34, R127,
R131, R132, R143). -/

namespace Sys2Proof.Machine

/-- The level of LINE OUT, mark or space, at a slot of the character in flight; mark while the transmitter is IDLE (R34). -/
def lineOut (s : State) (slot : Nat) : Bool :=
  match s.line.txChar with
  | none => true
  | some c => if slot < 64 then false else if 384 ≤ slot then true else c.code.getLsbD (slot / 64 - 1)

/-- The slots a character takes: six units and its stop length (R34). -/
def TxChar.slots (c : TxChar) : Nat := 384 + c.stop

/-- LOCK LAMP is driven while the lock is in force (R55). -/
def lockLamp (s : State) : Bool := s.kb.locked

/-- The attention output of a port is driven while its queue holds an entry (R186). -/
def attention (p : Port) (s : State) : Bool := (s.port p).queue != []

/-- Byte n of the port's next transaction on data out: the answer held, then filler 0 (R183, R190). -/
def dataOut (p : Port) (s : State) (n : Nat) : Byte := (holderBytes (s.port p).holder).getD n 0

/-- The BELL pin (R134). -/
def bellPin (s : State) : Bool := s.printer.bell

/-- The dot of a 5 by 7 pattern at a row 1 to 7 and a column 1 to 5. -/
def dotAt (pattern : BitVec 35) (row col : Nat) : Bool := pattern.getLsbD (5 * (row - 1) + (col - 1))

/-- The dot of a symbol at a row 1 to 7 and a column 1 to 5 (R133; log entry 19). SPACE drives no needle. -/
def glyphDot (y : Symbol) (row col : Nat) : Bool :=
  match y.kind with
  | .mutilated => dotAt Config.mutilationGlyph row col
  | .printable => dotAt (Config.glyph y.code (y.cls == .figures)) row col
  | _ => false

/-- Needle n, 1 to 7, at a dot column of the operation in flight (R133). -/
def needle (s : State) (row col : Nat) : Bool :=
  match s.printer.op with
  | some (.advance y) => glyphDot y row col
  | _ => false

/-- The row being punched: its five tracks, track k with unit k, and the feed hole with every row (R1, R143). -/
def punchRow (s : State) : Option (BitVec 5) := s.punch.rows.head?

/-- How long a printer operation lasts, in microseconds; a return from an unknown column lasts as long as its carriage takes
(R127, R129, R131, R132). A return's set-out is known once its target is. -/
def PrintOp.micros (o : PrintOp) : Option Nat :=
  match o with
  | .advance _ => some 30000
  | .lineFeed spacing => some (40000 * spacing)
  | .marginMove n => some (500 * n)
  | .carriageReturn _ (some c) (some t) => some (50000 + 500 * (c + t.format.margin))
  | .carriageReturn _ _ _ => none

/-- A punch row takes 20 ms (R143). -/
abbrev punchRowMicros : Nat := 20000

/-- The jam timer (R131). -/
abbrev jamMicros : Nat := 500000

end Sys2Proof.Machine
end

