-- ==== Sys2Proof/Machine/PortLines.lean ====
section
/-! DEFINITION. The lines of a command port (R182, R190): select, clock and data in as the processor drives them, bit by bit, and
data out as the part drives it. The command table has a row for a request and none for an edge of these lines, so that the edges
are functions of the state beside the steps, and a request joins the queue of waiting commands (log entry 20). -/

namespace Sys2Proof.Machine

/-- Eight bits of a line, the first the most significant, as a byte (R190). -/
def byteOfBits (a b c d e f g h : Bool) : Byte :=
  BitVec.ofBool a ++ BitVec.ofBool b ++ BitVec.ofBool c ++ BitVec.ofBool d ++ BitVec.ofBool e ++ BitVec.ofBool f ++ BitVec.ofBool g
    ++ BitVec.ofBool h

/-- The bytes that the bits of a line make, eight clocks to each; bits that do not fill a byte make none (R190; log entry 20). -/
def bytesOfBits : List Bool → List Byte
  | a :: b :: c :: d :: e :: f :: g :: h :: rest => byteOfBits a b c d e f g h :: bytesOfBits rest
  | _ => []

/-- Bit n of a run of bytes on a line, the most significant bit of each byte first, filler 0 after the last (R190). -/
def lineBit (bytes : List Byte) (n : Nat) : Bool := (bytes.getD (n / 8) 0).getLsbD (7 - n % 8)

/-- Select falls: a transaction begins (R182). -/
def selectFalls (p : Port) (s : State) : State :=
  if (s.port p).selected then s else s.setPort p { s.port p with selected := true, transfer := some ⟨[], 0⟩ }

/-- Clock rises: a transaction in progress samples data in (R190). -/
def clockRises (p : Port) (dataIn : Bool) (s : State) : State :=
  s.setPort p { s.port p with transfer := (s.port p).transfer.map fun t => { t with bitsIn := t.bitsIn ++ [dataIn] } }

/-- Clock falls: a transaction in progress goes on to its next bit of data out (R190). -/
def clockFalls (p : Port) (s : State) : State :=
  s.setPort p { s.port p with transfer := (s.port p).transfer.map fun t => { t with falls := t.falls + 1 } }

/-- The bit on data out during a transaction: that of the answer held (R183, R190). The manual does not say what data out shows
at other times. -/
def dataOutBit (p : Port) (s : State) : Option Bool :=
  (s.port p).transfer.map fun t => lineBit (holderBytes (s.port p).holder) t.falls

/-- The row of the table that the bytes of a transaction make, if any (R182). -/
def requestRow (p : Port) (rd : Readings) (bytes : List Byte) : Option Instr :=
  match frameRequest p rd bytes with
  | .nothing => none
  | .malformed _ => some (.malformedRequest p bytes)
  | .command i => some i

/-- Select is released for 2 µs or more: the request of the transaction in progress joins the commands that wait; a transaction that
a reset has discarded carries none (R182). -/
def selectRises (p : Port) (rd : Readings) (s : State) : State :=
  let s1 := s.setPort p { s.port p with selected := false, transfer := none }
  match (s.port p).transfer.bind fun t => requestRow p rd (bytesOfBits t.bitsIn) with
  | some i => s1.setPending (s1.pending ++ [i])
  | none => s1

/-- One clock of a transaction: data in is sampled at the rise, data out goes on at the fall (R190). -/
def clockBit (p : Port) (dataIn : Bool) (s : State) : State := clockFalls p (clockRises p dataIn s)

/-- A run of bits clocked in. -/
def clockBits (p : Port) : List Bool → State → State
  | [], s => s
  | b :: bs, s => clockBits p bs (clockBit p b s)

/-- The bits of a run of bytes on a line, the most significant of each byte first (R190). -/
def bitsOfBytes (bytes : List Byte) : List Bool :=
  bytes.flatMap fun b => [b.getLsbD 7, b.getLsbD 6, b.getLsbD 5, b.getLsbD 4, b.getLsbD 3, b.getLsbD 2, b.getLsbD 1, b.getLsbD 0]

end Sys2Proof.Machine
end

