-- ==== Sys2Proof/Safety.lean ====
section
/-! DEFINITION. What the statements call a sound state of the part: the store's blocks each in one place, its numbers and open
slots in agreement, its memory canonical, every queue within its capacity, the arbiter's list without repeats; the growth of an
event queue; identity cells that only lose bits; and a part at rest, in which no character waits to be sent. -/

namespace Sys2Proof.Machine

/-! ## The Traffic Store -/

/-- The blocks in use by the messages of a directory, in order (R83, R86). -/
def blocksOf (d : List Record) : List Nat := d.flatMap fun r => r.chain.map (·.block)

/-- A sound Traffic Store. -/
structure Store.Sound (t : Store) : Prop where
  /-- Each of the 512 blocks stands in exactly one place: the free queue, the retired set, or one chain (R83). -/
  blocks : (t.free ++ t.retired ++ blocksOf t.directory).Perm (List.range Config.blocks)
  /-- No two records carry one number (R84). -/
  distinct : (t.directory.map (·.number)).Nodup
  /-- Numbers lie in 1 to 9999 (R84). -/
  numbers : ∀ r ∈ t.directory, 1 ≤ r.number ∧ r.number ≤ 9999
  /-- So does the number counter (R84). -/
  counter : 1 ≤ t.counter ∧ t.counter ≤ 9999
  /-- The directory holds 0 to 48 records (R84). -/
  room : t.directory.length ≤ Config.directorySize
  /-- The memory has its canonical form. -/
  canonical : Memory.wf t.memory = true
  /-- Every address listed is one of the 512 blocks' (R80). -/
  within : ∀ e ∈ t.memory, e.1 < Config.blocks * Config.blockSize

/-- The open slots and the records agree: a slot names a message exactly when that message is OPEN with that holder, and a record
has a holder exactly when it is OPEN (R85, R87). -/
structure Store.SlotsAgree (t : Store) : Prop where
  slots : ∀ h n, t.slot h = some n ↔ ∃ r ∈ t.directory, r.number = n ∧ r.state = .opened ∧ r.holder = some h
  holders : ∀ r ∈ t.directory, r.state = .opened ↔ r.holder ≠ none
  distinct : (t.directory.map (·.number)).Nodup

/-- The bytes that a block of a chain holds for its reader: those below its fill, or, of a DAMAGED one, as many of code 0 in class L
with the mark set (R82, R86). -/
def Store.blockText (t : Store) (b : ChainBlock) : List Byte :=
  if b.damaged then List.replicate b.fill 0xA0 else (t.blockBytes b.block).take b.fill

/-- The text of a message as its blocks hold it; nothing where no record carries the number (R86). -/
def Store.textOf (t : Store) (n : Nat) : List Byte := match t.find n with
  | some r => r.chain.flatMap t.blockText
  | none => []

/-- Every undamaged block of a message reads clean (R81). -/
def Store.Clean (t : Store) (r : Record) : Prop := ∀ b ∈ r.chain, b.damaged = false → t.wrongOf b.block = []

/-- Block b is IN USE: record r holds it undamaged at chain index idx (R83, R86). -/
def Store.Holds (t : Store) (b : Nat) (r : Record) (idx : Nat) : Prop :=
  r ∈ t.directory ∧ ∃ k, r.chain[idx]? = some k ∧ k.block = b ∧ k.damaged = false

/-! ## Queues and records of the other blocks -/

/-- The arbiter's list holds each requester at most once, and not the holder of the grant (R38, R39). -/
def LineUnit.arbiterSound (l : LineUnit) : Prop := l.requests.Nodup ∧ ∀ r, l.holder = some r → r ∉ l.requests

/-- The quality record within its ranges (R29 to R31). -/
def LineUnit.qualitySound (l : LineUnit) : Prop :=
  l.maxDisp ≤ 32 ∧ l.lastP ≤ 50 ∧ l.peakP ≤ 50 ∧ l.received ≤ Config.countMax ∧ l.overCount ≤ Config.countMax
    ∧ l.framingCount ≤ Config.countMax

/-- Every queue within its capacity and every table of its size. -/
structure State.Bounded (s : State) : Prop where
  /-- Event queues (R186). -/
  sEvents : s.sPort.queue.length ≤ eventQueueSize
  xEvents : s.xPort.queue.length ≤ eventQueueSize
  /-- Print queue (R126). -/
  print : s.printer.queue.length ≤ printQueueSize
  /-- Punch queue (R142). -/
  punch : s.punch.queue.length ≤ punchQueueSize
  /-- Typeahead (R52). -/
  typeahead : s.kb.typeahead.length ≤ 32
  /-- Keys and planes (R47, R49). -/
  keys : s.kb.keys.length = 64
  plane0 : s.kb.plane0.length = 64
  plane1 : s.kb.plane1.length = 64
  /-- Trigger table and history (R75, R76). -/
  triggers : s.dist.triggers.length = 4
  history : s.dist.history.length ≤ 8
  /-- Identity slots (R153). -/
  slots : s.ident.slots.length = 8
  /-- The arbiter (R38). -/
  arbiter : s.line.arbiterSound
  /-- The quality record (R30, R31). -/
  quality : s.line.qualitySound

/-! ## Ports -/

/-- A set flag stays set (R188). -/
def Flags.le (f g : Flags) : Prop :=
  (f.framingSeen = true → g.framingSeen = true) ∧ (f.distortionSeen = true → g.distortionSeen = true)
    ∧ (f.printLost = true → g.printLost = true) ∧ (f.punchLost = true → g.punchLost = true)
    ∧ (f.storeCorrected = true → g.storeCorrected = true) ∧ (f.storeUncorrectable = true → g.storeUncorrectable = true)
    ∧ (f.eventsLost = true → g.eventsLost = true)

/-- A port at which only events and conditions have happened: entries may have joined the tail of its queue, flags may have been
set, and its response holder, its mask, its select and its transaction stand (R182, R183, R186, R188). -/
def PortState.Grows (p q : PortState) : Prop :=
  q.holder = p.holder ∧ q.mask = p.mask ∧ p.queue <+: q.queue ∧ p.flags.le q.flags ∧ q.selected = p.selected ∧ q.transfer = p.transfer

/-! ## Identity cells -/

/-- A word of cells in which no bit is 1 that was 0 (R153). -/
def bitsFall {w : Nat} (old new : BitVec w) : Prop := new &&& old = new

/-- A slot whose cells have only gone from 1 to 0; a count cell or a marker, once written, stays written (R153). -/
def IdSlot.Falls (k l : IdSlot) : Prop :=
  l.positions.length = k.positions.length
    ∧ (∀ p, bitsFall (k.positions.getD p 0) (l.positions.getD p 0))
    ∧ bitsFall k.length l.length ∧ bitsFall k.check l.check
    ∧ (∀ n, k.count.getD n false = true → l.count.getD n false = true)
    ∧ (k.marker = true → l.marker = true)

/-- An Identity Store whose cells have only gone from 1 to 0. -/
def Identity.Falls (i j : Identity) : Prop :=
  j.slots.length = i.slots.length ∧ (∀ n, (i.slot n).Falls (j.slot n)) ∧ (i.protect = true → j.protect = true)

/-! ## A part at rest -/

/-- No character waits to be sent: the typeahead is empty, no requester waits or holds the grant, and no answer-back is wanted.
At such a state the transmitter finds nothing and the keyboard offers nothing (R35, R53). -/
def State.Resting (s : State) : Prop :=
  s.kb.typeahead = [] ∧ s.line.requests = [] ∧ s.line.holder = none ∧ s.line.abState = .none

/-- A character is in flight, or transmit enable is OFF with no answer-back text to finish, and nothing is typed: the transmitter
takes nothing and the keyboard asks for nothing, whoever else waits (R35, R36, R53). -/
def State.Engaged (s : State) : Prop :=
  (s.line.txChar ≠ none ∨ s.line.txEnable = false ∧ s.line.abState ≠ .sending) ∧ s.kb.typeahead = [] ∧ .keyboard ∉ s.line.requests

/-! ## What moving traffic leaves alone

A command that may let a character be taken ends in kick, after which symbols may have moved from the typeahead, a channel,
CONTROL or the answer-back latch to the line and the sinks. The still part of a state is everything that such movement does not
touch: pins, receiver, settings, routing, formats, marks, identity cells, holders and masks of the ports. -/

/-- The Line Unit without what the transmit side of it changes while traffic moves. -/
def LineUnit.still (l : LineUnit) : LineUnit :=
  { l with releaseRun := none, txChar := none, holder := none, requests := [], control := none, abState := .none,
           absorbed := 0, abText := [], abSent := 0, txCase := .unknown }

/-- The Call Sequencer's settings, its mode snapshot and its break guard. -/
def Calls.still (c : Calls) : Calls :=
  { Calls.afterReset with snapshot := c.snapshot, breakGuardT := c.breakGuardT, mode := c.mode, identify := c.identify,
                          settle := c.settle, idle := c.idle, mutLimit := c.mutLimit, attemptLimit := c.attemptLimit,
                          autoDrain := c.autoDrain }

/-- The printer without its queue, engine, operation and bell. -/
def Printer.still (p : Printer) : Printer := { p with queue := [], engine := .idle, op := none, bell := false }

/-- The punch without its queue, engine, rows and case. -/
def Punch.still (p : Punch) : Punch := { p with queue := [], engine := .idle, rows := [], caseNow := .unknown }

/-- The keyboard without its typeahead. -/
def Keyboard.still (k : Keyboard) : Keyboard := { k with typeahead := [] }

/-- Of the store, its clock, its scrubber and its retired set. -/
def Store.still (t : Store) : Store := { Store.afterCold with clock := t.clock, scrubPos := t.scrubPos, retired := t.retired }

/-- Of a port, its holder, its mask, its select and its transaction. -/
def PortState.still (p : PortState) : PortState := { p with queue := [], flags := .clear }

/-- What moving traffic leaves alone. -/
def State.still (s : State) : State where
  pins := s.pins
  line := s.line.still
  kb := s.kb.still
  dist := s.dist
  store := s.store.still
  ch0 := none
  ch1 := none
  printer := s.printer.still
  punch := s.punch.still
  ident := s.ident
  calls := s.calls.still
  sPort := s.sPort.still
  xPort := s.xPort.still
  freeCount := s.freeCount
  pending := s.pending

/-- A command ends in the state u, but for the traffic that it lets move: the still parts agree, and where no character waits in u,
or the transmitter is taken and nothing is typed, the state is exactly u, whatever requests, grant, symbol of CONTROL or answer-back
u holds. -/
def Leaves (c : Instr) (s u : State) : Prop :=
  ∃ t, exec c s = .next t ∧ t.still = u.still ∧ (u.Resting ∨ u.Engaged → t = u)

/-- A command does what Leaves says, and where the transmitter is taken and nothing is typed it ends in exactly u. -/
def Brings (c : Instr) (s u : State) : Prop := Leaves c s u ∧ (s.Engaged → exec c s = .next u)

/-! ## What the rules name, written out -/

/-- The arbiter after a request (R38, R39): a requester that is neither in the list nor the holder joins the tail, and where nobody
holds the grant, transmit enable is ON and no rate change is pending, the grant goes to the head of the list. -/
def LineUnit.asked (l : LineUnit) (r : Requester) : LineUnit :=
  let known := l.holder = some r ∨ r ∈ l.requests
  let list := if known then l.requests else l.requests ++ [r]
  let given := ¬ known ∧ l.holder = none ∧ l.txEnable = true ∧ l.pendingRate = none
  { l with holder := if given then list.head? else l.holder, requests := if given then list.tail else list }

/-- The check of R5 written out on a byte: no mutilated mark, and class N with one of the six neutral codes, or class L or F with another
code (R3, R4, R5, R191). -/
def SymbolPasses (b : Byte) : Prop :=
  let neutralCode := (b.extractLsb' 0 5).toNat ∈ [0, 1, 2, 16, 30, 31]
  b.getLsbD 7 = false ∧ (b.extractLsb' 5 2 = 0 ∧ neutralCode ∨ (b.extractLsb' 5 2 = 1 ∨ b.extractLsb' 5 2 = 2) ∧ ¬ neutralCode)

/-- The two bytes of a LOAD KEYMAP entry name an assignment (R5, R49, R192). -/
def Names (e : Byte × Byte) : Assignment → Prop
  | .none => e.1 = 0
  | .symbol y => e.1 = 1 ∧ SymbolPasses e.2 ∧ e.2 = y.toByte
  | .shift => e.1 = 2
  | .function f => e.1 = 3 ∧ match f with
    | .hereIs => e.2 = 0
    | .wru => e.2 = 1
    | .breakIn => e.2 = 2
    | .lineLocal => e.2 = 3
    | .send => e.2 = 4
    | .report n => 1 ≤ n ∧ n ≤ 8 ∧ e.2.toNat = 4 + n

/-- The SENT copy of a character reaches the SENT row (R61, R66, R67): PRINTER and PUNCH, where the row holds them, take it, or it is
dropped for the one that cannot, with PRINT LOST or PUNCH LOST in both ports and the owed mark on the received message that is open; in a
call the idle timer starts afresh (R173). -/
def State.copied (s : State) (y : Symbol) : State :=
  let toPrinter := s.dist.rowSent.printer
  let toPunch := s.dist.rowSent.punch
  let lostPrint := toPrinter && s.printer.offer != .takes
  let lostPunch := toPunch && s.punch.offer != .takes
  let flagged (f : Flags) : Flags := { f with printLost := f.printLost || lostPrint, punchLost := f.punchLost || lostPunch }
  { s with
    printer := if toPrinter && s.printer.offer == .takes then s.printer.accept y else s.printer
    punch := if toPunch && s.punch.offer == .takes then s.punch.accept y else s.punch
    calls := { s.calls with
      idleT := if s.calls.state = .incoming ∨ s.calls.state = .outgoing then some s.calls.idle else s.calls.idleT }
    sPort := { s.sPort with flags := flagged s.sPort.flags }
    xPort := { s.xPort with flags := flagged s.xPort.flags }
    store := match s.store.slotLine with
      | none => s.store
      | some n => { s.store with directory := s.store.directory.map fun q => if q.number = n then
          { q with printOwed := q.printOwed || lostPrint, punchOwed := q.punchOwed || lostPunch } else q } }

/-- Channel ch is held for a reason (R120): PENDING, RUNNING or WAITING, it keeps all but its phase, leaves the arbiter, and CHANNEL HELD is
posted; HELD already, or IDLE, it stays. -/
def State.heldFor (s : State) (ch : Chan) (why : HoldReason) : State := match s.chan ch with
  | none => s
  | some w => match w.phase with
    | .held _ => s
    | _ => post (.channelHeld ch w.message w.position why)
        ((s.setLine (s.line.leave (.chan ch))).setChan ch (some { w with phase := .held why }))

/-- Nothing acts on the hold of a channel: a port started each channel at work, or no automatic send and no collection is under way (a
drain stands through a hold, R180). -/
def State.Unheeded (s : State) : Prop :=
  (∀ ch w, s.chan ch = some w → ∃ p, w.starter = .port p) ∨ s.calls.auto = none ∧ s.calls.coll = none

/-- A line break is declared (R26): it is marked and posted, both channels are held, CH0 first (log entry 5), the break guard starts in a
call (R174), and TX case becomes UNKNOWN (R7). -/
def State.broken (s : State) : State :=
  let told := post .breakDetected (s.setLine { s.line with breakDeclared := true })
  let u := (told.heldFor .ch0 .lineBreak).heldFor .ch1 .lineBreak
  { u with
    line := { u.line with txCase := .unknown }
    calls := { u.calls with breakGuardT := u.calls.breakGuardT || decide (u.calls.state ≠ .idle) } }

/-- The block of a message that its next symbol goes into: the last of its chain, IN USE with a fill below 32 (R88). -/
def Record.lastOpen (r : Record) : List Nat := match r.chain.getLast? with
  | some b => if b.damaged = false ∧ b.fill < 32 then [b.block] else []
  | none => []

/-- u is t with the blocks of a list written anew: their codes agree with their data, and every other block, its wrong bits with it, and
all memory outside the list stand (R80). -/
def Store.Rewritten (t u : Store) (written : List Nat) : Prop :=
  (∀ b ∈ written, u.wrongOf b = []) ∧ (∀ b, b ∉ written → u.wrongOf b = t.wrongOf b)
  ∧ ∀ a, a / 32 ∉ written → Memory.read u.memory a = Memory.read t.memory a

/-- The engine takes y from the head of its queue, of which the rest stays, and forms its rows by punch case (R9, R12, R143). -/
def Punch.feeds (u : Punch) (y : Symbol) (rest : List Symbol) : Punch :=
  let rows := if y.mutilated then [31] else
    if y.cls = .letters ∧ u.caseNow ≠ .letters then [31, y.code]
    else if y.cls = .figures ∧ u.caseNow ≠ .figures then [30, y.code] else [y.code]
  { u with
    engine := .busy, queue := rest, rows := rows
    caseNow := if rows.head? = some 31 then .letters else if rows.head? = some 30 then .figures else u.caseNow }

/-- A pattern matches a run of symbols (R73, R74): the run is at least as long, and each position is DON'T-CARE or a symbol whose code
and class an unmutilated symbol of the run has. -/
def Matches (pattern : List PatPos) (run : List Symbol) : Bool :=
  decide (pattern.length ≤ run.length) && (pattern.zip run).all fun q => match q.1 with
    | .dontCare => true
    | .symbol z => !q.2.mutilated && q.2.code == z.code && q.2.cls == z.cls

/-- A caller whose identity was captured may collect a message (R175). -/
def Record.CollectedBy (r : Record) (captured : List Symbol) : Bool :=
  r.kind == .prepared && r.state != .opened && r.delivery == .held && r.expected != [] && Matches r.expected captured

/-- Channel ch runs on message n from its first symbol, started by the sequencer and bound for the transmitter, with the copy of its
first block b and its request made (R109, R111, R112). -/
def State.sends (s : State) (ch : Chan) (n : Nat) (b : ChainBlock) : State :=
  ({ s with
    line := s.line.asked (.chan ch)
    store := { s.store with directory := s.store.directory.map (fun q =>
      if q.number = n then { q with readers := q.readers + 1 } else q) } } : State).setChan ch
    (some ⟨.running, n, 0, ⟨true, false, false, false⟩, .now, true, .sequencer,
      some ⟨0, (s.store.blockBytes b.block).map Symbol.ofByte, true⟩⟩)

/-- A slot is taken with text ys by a latch load (R161): it is committed, at most one bit of its 21 bytes and its check code is wrong,
and with that bit turned the length lies in 1 to 20 and the positions below it hold ys. -/
def IdSlot.Taken (k : IdSlot) (ys : List Symbol) : Prop :=
  k.marker = true ∧ k.wrongBits.length ≤ 1 ∧
    let cells := match k.wrongBits with
      | e :: _ => (k.positions ++ [k.length]).modify (e / 8) (fun b => b ^^^ (1#8 <<< (e % 8)))
      | [] => k.positions ++ [k.length]
    ∃ n : Byte, cells[20]? = some n ∧ 1 ≤ n.toNat ∧ n.toNat ≤ 20 ∧ ys = (cells.take n.toNat).map Symbol.ofByte

/-- What a latch load gives (R161): the highest committed slot whose check passes and its text, IDENTITY BAD for each committed slot
above it, the highest first, and IDENTITY CORRECTED for it where a bit was wrong; and where no slot passes, an empty latch and
IDENTITY BAD for every committed slot. -/
def LatchLoaded (slots : List IdSlot) (latch : Option Latch) (events : List Event) : Prop :=
  let bad (from' : Nat) : List Event := (((List.range slots.length).filter fun m =>
    from' ≤ m && (slots.getD m .unwritten).marker).reverse).map .identityBad
  (∀ (n : Nat) (k : IdSlot) (ys : List Symbol), slots[n]? = some k → k.Taken ys →
    (∀ (m : Nat) (l : IdSlot) (zs : List Symbol), n < m → slots[m]? = some l → ¬ l.Taken zs) →
    latch = some ⟨n, ys⟩ ∧ events = bad (n + 1) ++ (if k.wrongBits = [] then [] else [.identityCorrected n]))
  ∧ ((∀ (n : Nat) (k : IdSlot) (ys : List Symbol), slots[n]? = some k → ¬ k.Taken ys) → latch = none ∧ events = bad 0)

/-- The cells that a reset in the middle of a PROGRAM leaves in its slot (R160): all but the positions given stand; of those, each up
to some whole number m has taken its symbol's zeros, the next some of them, and the rest none. -/
def IdSlot.CutAt (k l : IdSlot) (first : Nat) (text : List Byte) : Prop :=
  l = { k with positions := l.positions } ∧ l.positions.length = k.positions.length
  ∧ ∃ m part, m ≤ text.length ∧ ∀ (j : Nat) (old : Byte), k.positions[j]? = some old →
    (j < first ∨ first + text.length ≤ j ∨ first + m < j → l.positions[j]? = some old)
    ∧ (∀ b, first ≤ j → text[j - first]? = some b → j < first + m → l.positions[j]? = some (old &&& b))
    ∧ (∀ b, j = first + m → text[j - first]? = some b → l.positions[j]? = some (old &&& (b ||| part)))

/-! ## What a reset leaves -/

/-- A call session with nothing in it (R181). -/
def Calls.NoCall (c : Calls) : Prop :=
  c.state = .idle ∧ c.snapshot = none ∧ c.phase = none ∧ c.wruPending = false ∧ c.capturing = false ∧ c.captured = []
    ∧ c.status = .none ∧ c.auto = none ∧ c.coll = none ∧ c.drain = none ∧ c.drainReq = false ∧ c.settleT = none
    ∧ c.captureStartT = false ∧ c.captureGapT = false ∧ c.idleT = none ∧ c.breakGuardT = false ∧ c.clearGuardT = false

/-- The values that a cold and a warm reset alike leave outside the store and the identity cells, for the pins as they stand in s
(R28, R45, R60, R79, R125, R140, R141, R152, R153, R160, R161, R181, R182, R189). -/
structure AfterReset (s t : State) : Prop where
  pins : t.pins = s.pins
  line : t.line.rate = 1 ∧ t.line.pendingRate = none ∧ t.line.stopLen = 96 ∧ t.line.breakMs = 300 ∧ t.line.threshold = 25
    ∧ t.line.txUsos = false ∧ t.line.rxUsos = false ∧ t.line.releaseTenths = 10
  receiver : t.line.rx = (if s.pins.lineMark then .hunting else .spacingHold) ∧ t.line.breakDeclared = false ∧ t.line.units = []
    ∧ t.line.rxCase = .letters
  quality : t.line.lastP = 0 ∧ t.line.peakP = 0 ∧ t.line.received = 0 ∧ t.line.overCount = 0 ∧ t.line.framingCount = 0
    ∧ t.line.distReported = false
  transmitter : t.line.txChar = none ∧ t.line.txEnable = true ∧ t.line.txCase = .unknown ∧ t.line.abState = .none
    ∧ t.line.absorbed = 0
  arbiter : t.line.holder = none ∧ t.line.requests = [] ∧ t.line.control = none ∧ t.line.releaseRun = none
  keyboard : t.kb.keys = List.replicate 64 ⟨false, 0⟩ ∧ t.kb.modifier = false ∧ t.kb.confirmCount = 4
    ∧ t.kb.plane0 = builtInPlane0 ∧ t.kb.plane1 = builtInPlane1 ∧ t.kb.typeahead = [] ∧ t.kb.mode = .line
    ∧ t.kb.portLock = false ∧ t.kb.callLock = false
  rows : t.dist.rowReceive = ⟨false, true, false, false⟩ ∧ t.dist.rowSent = ⟨false, true, false, false⟩
    ∧ t.dist.rowLine = ⟨true, false, false, false⟩ ∧ t.dist.rowLocal = ⟨false, true, false, false⟩
  gate : t.dist.storeAdd = false ∧ t.dist.gated = false ∧ t.dist.gateOpen = false ∧ t.dist.history = []
    ∧ t.dist.triggers = [none, none, none, none]
  channels : t.ch0 = none ∧ t.ch1 = none
  printer : t.printer.queue = [] ∧ t.printer.engine = .busy ∧ t.printer.op = some (.carriageReturn .homing none none)
    ∧ t.printer.followOn = .none ∧ t.printer.restart = false ∧ t.printer.paperOut = s.printer.paperOut ∧ t.printer.column = 0
    ∧ t.printer.active = ⟨69, 0, 1, .hold, false⟩ ∧ t.printer.pending = ⟨69, 0, 1, .hold, false⟩
    ∧ t.printer.waiting = false ∧ t.printer.bell = false
  punch : t.punch.queue = [] ∧ t.punch.engine = (if s.punch.switchOff then .off else .idle) ∧ t.punch.rows = []
    ∧ t.punch.caseNow = .unknown ∧ t.punch.switchOff = s.punch.switchOff ∧ t.punch.portOff = false
    ∧ t.punch.tapeLow = s.punch.tapeLow ∧ t.punch.counter = (if s.punch.tapeLow then some 500 else none)
    ∧ t.punch.allowance = 500 ∧ t.punch.tapeOut = false ∧ t.punch.rowsPunched = 0
  identity : t.ident.op = none ∧ t.ident.latch = (loadFrom t.ident.descending).1 ∧ t.ident.wruResponse = true
    ∧ t.ident.protect = s.ident.protect
  /-- The cells stand, but for the positions of a PROGRAM that the reset cuts short (R153, R160). -/
  cells : ((∀ n first text, s.ident.op ≠ some (.program n first text)) → t.ident.slots = s.ident.slots)
    ∧ ∀ n first text k, s.ident.op = some (.program n first text) → s.ident.slots[n]? = some k → k.deadBits = [] →
      (∀ j, j ≠ n → t.ident.slots[j]? = s.ident.slots[j]?) ∧ ∃ l, t.ident.slots[n]? = some l ∧ k.CutAt l first text
  /-- What the load at the end of the reset gives, no slot having more wrong bits than its check code tells apart (R161). -/
  loaded : (∀ k ∈ s.ident.slots, k.positions.length = 20 ∧ k.wrongBits.length ≤ 2) →
    LatchLoaded t.ident.slots t.ident.latch (loadFrom t.ident.descending).2
  call : t.calls.NoCall
  answering : t.calls.mode = .attended ∧ t.calls.identify = true ∧ t.calls.settle = 2 ∧ t.calls.idle = 90
    ∧ t.calls.mutLimit = 0 ∧ t.calls.attemptLimit = 3 ∧ t.calls.autoDrain = true
  holders : t.sPort.holder = none ∧ t.xPort.holder = none
  transactions : t.sPort.transfer = none ∧ t.xPort.transfer = none ∧ t.sPort.selected = s.sPort.selected
    ∧ t.xPort.selected = s.xPort.selected
  masks : ∀ e : Event, admits t.sPort.mask e = true ∧ admits t.xPort.mask e = true
  flags : t.sPort.flags = .clear ∧ t.xPort.flags = .clear

/-! ## Ports of commands -/

/-- The port a command is taken at; none for an event of the part and for a reset of the whole part (R183, R185). -/
def commandPort : Instr → Option Port
  | .malformedRequest p _ | .nop p | .status p | .readEvents p _ | .setEventMask p _ | .setClock p _
  | .configureLine p _ _ _ _ _ _ _ _ _ | .receiveOn p | .receiveOff p | .transmitOn p | .transmitOff p | .readLineQuality p
  | .route p _ _ _ | .setTrigger p _ _ _ _ | .setGating p _ | .loadKeymap p _ _ _ | .keyboardLock p | .keyboardUnlock p
  | .setKeyboardMode p _ | .configureKeyboard p _ | .create p _ | .appendText p _ _ | .close p _ | .readText p _ _ _
  | .readRecord p _ _ _ | .setDelivery p _ _ _ _ _ | .delete p _ | .clearOwed p _ _ | .startChannel p _ _ _ _ _ | .hold p _
  | .resume p _ | .stopChannel p _ | .readChannel p _ | .setFormat p _ _ _ _ _ _ | .printerRestart p | .printOwed p
  | .punchFeed p _ | .punchOn p | .punchOff p | .punchResume p | .configurePunch p _ _ _ | .readSlot p _
  | .programSlot p _ _ _ _ | .commitSlot p _ _ _ | .protect p _ | .callIn p | .callOut p | .callCleared p | .autoSend p _
  | .sendAnswerBack p | .sendWru p | .configureAnswering p _ _ _ _ _ _ _ _ _ => some p
  | _ => none

/-- A reset of the whole part (R106, R107, R185). -/
def isReset : Instr → Bool
  | .coldReset | .warmReset | .restart _ => true
  | _ => false

end Sys2Proof.Machine
end

