-- ==== Sys2Proof/WellFormed.lean ====
section
/-! DEFINITION. Which terms of Instr are commands or events as the manual's formats allow them: the length ranges of the command
code table (R190), the slots of a timed transition (R29), and a malformed request that is one (R182). -/

namespace Sys2Proof

/-- The bytes of a MALFORMED_REQUEST make no command, whatever the pins show (R182). -/
def malformedBytes (p : Port) (bytes : List Byte) : Bool :=
  match frameRequest p ⟨0, false⟩ bytes with
  | .malformed _ => true
  | _ => false

/-- A command or event as the formats allow it. -/
def Instr.wellFormed : Instr → Bool
  | .malformedRequest p bytes => malformedBytes p bytes
  | .setTrigger _ _ _ _ pattern => pattern.length ≤ 8
  | .loadKeymap _ _ _ entries => 1 ≤ entries.length && entries.length ≤ 32
  | .appendText _ _ text => 1 ≤ text.length && text.length ≤ 32
  | .setDelivery _ _ _ _ ident dest => ident.length + dest.length ≤ 36
  | .programSlot _ _ _ _ text => 1 ≤ text.length && text.length ≤ 20
  | .timedTransition slot => 1 ≤ slot && slot < 416
  | .coldReset => true
  | .warmReset => true
  | .nop _ => true
  | .status _ => true
  | .readEvents _ _ => true
  | .setEventMask _ _ => true
  | .restart _ => true
  | .setClock _ _ => true
  | .configureLine _ _ _ _ _ _ _ _ _ _ => true
  | .receiveOn _ => true
  | .receiveOff _ => true
  | .transmitOn _ => true
  | .transmitOff _ => true
  | .readLineQuality _ => true
  | .route _ _ _ _ => true
  | .setGating _ _ => true
  | .keyboardLock _ => true
  | .keyboardUnlock _ => true
  | .setKeyboardMode _ _ => true
  | .configureKeyboard _ _ => true
  | .create _ _ => true
  | .close _ _ => true
  | .readText _ _ _ _ => true
  | .readRecord _ _ _ _ => true
  | .delete _ _ => true
  | .clearOwed _ _ _ => true
  | .startChannel _ _ _ _ _ _ => true
  | .hold _ _ => true
  | .resume _ _ => true
  | .stopChannel _ _ => true
  | .readChannel _ _ => true
  | .setFormat _ _ _ _ _ _ _ => true
  | .printerRestart _ => true
  | .printOwed _ => true
  | .punchFeed _ _ => true
  | .punchOn _ => true
  | .punchOff _ => true
  | .punchResume _ => true
  | .configurePunch _ _ _ _ => true
  | .readSlot _ _ => true
  | .commitSlot _ _ _ _ => true
  | .protect _ _ => true
  | .callIn _ => true
  | .callOut _ => true
  | .callCleared _ => true
  | .autoSend _ _ => true
  | .sendAnswerBack _ => true
  | .sendWru _ => true
  | .configureAnswering _ _ _ _ _ _ _ _ _ _ => true
  | .startEdge => true
  | .stopSample => true
  | .markReturn => true
  | .lineBreak => true
  | .lineRate => true
  | .characterEnd => true
  | .releaseIntervalExpiry => true
  | .keyScan _ => true
  | .keyboardDelivery => true
  | .channelDelivery _ => true
  | .printCompletion => true
  | .carriageHome => true
  | .carriageJam => true
  | .paperOut => true
  | .paperPresent => true
  | .bellExpiry => true
  | .punchRowCompletion => true
  | .punchTapeOut => true
  | .tapeLow => true
  | .tapePresent => true
  | .punchSwitchOff => true
  | .punchSwitchOn => true
  | .scrub => true
  | .secondsTick => true
  | .programCompletion => true
  | .commitCellWrite => true
  | .protectCompletion => true
  | .protectedFailCompletion => true
  | .settleExpiry => true
  | .captureStartExpiry => true
  | .captureGapExpiry => true
  | .idleTimerExpiry => true
  | .breakGuardExpiry => true
  | .clearingGuardExpiry => true
  | .drainStart => true
  | .startCheck => true
  | .unitSample => true

end Sys2Proof
end

