-- ==== Sys2Proof/Certificates/Slice0/Obligations.lean ====
section
/-! DEFINITION. The statements for the provers, one def Obligations.<Name> each; OBLIGATIONS.json lists them. -/

open Sys2Proof Sys2Proof.Machine

/-! ## Steps and requests -/

/-- Step runs the command at the front of the queue on the state with the queue's rest, and an empty queue idles (the model's
choice, log entry 1). -/
def Obligations.StepRunsTheFrontCommand : Prop :=
  ∀ s : State, (∀ c rest, s.pending = c :: rest → step s = exec c (s.setPending rest)) ∧ (s.pending = [] → step s = .next s)

/-- No command touches the queue of waiting commands, which is the model's own (log entry 1, DESIGN CHOICE): the manual gives the part
commands and no queue of them. -/
def Obligations.CommandsLeaveTheQueue : Prop :=
  ∀ c s t, exec c s = .next t → t.pending = s.pending

/-- A well-formed port command written out as a request and padded at will reads back as that command, with every operand; clocked in
bit by bit, each byte most significant bit first, its transaction hands that command to the queue and changes nothing else (that it joins
a queue is log entries 1 and 20); and during a transaction data out gives the answer held, bit by bit in the same order, an empty holder
as its own four bytes, and filler 0 after it (R182, R183, R190, R192). -/
def Obligations.RequestsReadBack : Prop :=
  (∀ (i : Instr) (bytes : List Byte), i.wellFormed = true → requestBytes i = some bytes →
    ∃ p rd, (commandPort i = some p ∨ i = .restart p) ∧ (∀ padding, frameRequest p rd (bytes ++ padding) = .command i)
      ∧ ∀ (padding : List Byte) (s : State), (s.port p).selected = false → (s.port p).transfer = none →
        selectRises p rd (clockBits p (bitsOfBytes (bytes ++ padding)) (selectFalls p s)) = s.setPending (s.pending ++ [i]))
  ∧ ∀ (p : Port) (s : State) (bits : List Bool), (s.port p).selected = false →
    let held : List Byte := match (s.port p).holder with
      | none => [0, 3, 1, 0]
      | some a => [a.code, match a.status with | .done => 0 | .started => 1 | .damaged => 2 | .refused => 3,
          match a.reason with
            | none => 0 | some .format => 1 | some .range => 2 | some .busy => 3 | some .state => 4 | some .noSuch => 5
            | some .full => 6 | some .notHolder => 7 | some .locked => 8 | some .order => 9 | some .count => 10,
          byteOf a.result.length] ++ a.result
    ∃ b, dataOutBit p (clockBits p bits (selectFalls p s)) = some b
      ∧ (∀ y, held[bits.length / 8]? = some y → b = y.getLsbD (7 - bits.length % 8))
      ∧ (held.length ≤ bits.length / 8 → b = false)

/-- A transaction that carries a command carries a well-formed one, taken at that port, and nothing but its request and padding
(R182, R190, R192). -/
def Obligations.CommandsComeFromTheirRequest : Prop :=
  ∀ p rd bytes i, frameRequest p rd bytes = .command i →
    i.wellFormed = true ∧ (commandPort i = some p ∨ i = .restart p)
      ∧ ∃ enc padding, requestBytes i = some enc ∧ bytes = enc ++ padding

/-- Fewer than two bytes are no request; a request cut short, or of a code the table does not give, is malformed and is answered
REFUSED FORMAT with its command code, and changes nothing else; a transaction that a reset has discarded carries no request, whatever is
still clocked in, until select has risen and falls again (R94, R182, R184). That a malformed APPEND TEXT too, which no block sees, carries
the count of 0 that R184 gives a refused APPEND TEXT is the model's reading, log entry 42. -/
def Obligations.MalformedRequestsAreRefused : Prop :=
  ∀ (p : Port) (rd : Readings),
    (∀ bytes : List Byte, bytes.length < 2 → frameRequest p rd bytes = .nothing)
    ∧ (∀ (code len : Byte) (rest : List Byte), rest.length < len.toNat → frameRequest p rd (code :: len :: rest) = .malformed code)
    ∧ (∀ (code len : Byte) (rest : List Byte), (∀ i enc, requestBytes i = some enc → enc.head? ≠ some code) →
        frameRequest p rd (code :: len :: rest) = .malformed code)
    ∧ (∀ (bytes : List Byte) (code : Byte) (s : State), frameRequest p ⟨0, false⟩ bytes = .malformed code →
        exec (.malformedRequest p bytes) s = .next (s.answer p ⟨code, .refused, some .format, if code = 0x31 then [0] else []⟩))
    ∧ (∀ (bits : List Bool) (s : State), (s.port p).transfer = none →
        selectRises p rd (clockBits p bits s) = s.setPort p { s.port p with selected := false })

/-! ## The command ports (chapter 11) -/

/-- NOP is answered DONE and changes nothing else; STATUS returns the port's flags and the states of the blocks, and clears that
port's flags alone (R183, R188, R193). -/
def Obligations.NopAndStatusAnswer : Prop :=
  ∀ (p : Port) (s : State),
    exec (.nop p) s = .next (s.setPort p { s.port p with holder := some ⟨0x01, .done, none, []⟩ })
    ∧ exec (.status p) s = .next (s.setPort p { s.port p with
        flags := ⟨false, false, false, false, false, false, false⟩
        holder := some ⟨0x02, .done, none,
          [(s.port p).flags.toByte, byteOf (s.port p).queue.length, byteOf s.line.rx.index,
            if s.line.txChar = none then 0 else 1, byteOf s.calls.state.index, byteOf s.printer.engine.index,
            byteOf s.punch.engine.index, byteOf (chanStateIndex s.ch0), byteOf (chanStateIndex s.ch1),
            optByte (s.ident.op.map IdOp.kindIndex), optByte (s.ident.op.bind IdOp.slot?)]⟩ })

/-- READ EVENTS removes the oldest entries, up to its count, and answers how many are left and then those entries of seven bytes
each; a count outside 1 to 4 is refused RANGE (R187, R194). -/
def Obligations.EventsAreReadOldestFirst : Prop :=
  (∀ e : Event, e.bytes.length = 7 ∧ e.bytes.head? = some (byteOf e.kind))
  ∧ ∀ (p : Port) (count : Byte) (s : State),
    (1 ≤ count.toNat ∧ count.toNat ≤ 4 →
      exec (.readEvents p count) s = .next (s.setPort p { s.port p with
        queue := (s.port p).queue.drop count.toNat
        holder := some ⟨0x03, .done, none,
          byteOf ((s.port p).queue.length - count.toNat) :: (((s.port p).queue.take count.toNat).map Event.bytes).flatten⟩ }))
    ∧ (count.toNat = 0 ∨ 4 < count.toNat →
      exec (.readEvents p count) s = .next (s.answer p ⟨0x03, .refused, some .range, []⟩))

/-- SET EVENT MASK stores the set in its own port, unless it names a kind from 40 on; and an event posted joins the queue of each
port whose mask admits its kind while the queue holds fewer than 16 entries, and is dropped with EVENTS LOST in that port alone
where it holds 16 (R186, R187, R194). -/
def Obligations.MasksAdmitEvents : Prop :=
  (∀ (p : Port) (mask : BitVec 48) (s : State),
    ((∃ n, 40 ≤ n ∧ mask.getLsbD n = true) → exec (.setEventMask p mask) s = .next (s.answer p ⟨0x04, .refused, some .range, []⟩))
    ∧ ((∀ n, 40 ≤ n → mask.getLsbD n = false) → exec (.setEventMask p mask) s = .next (s.setPort p { s.port p with
        mask := mask, holder := some ⟨0x04, .done, none, eventMaskBytes mask⟩ })))
  ∧ ∀ (e : Event) (s : State) (p : Port),
    ((s.port p).mask.getLsbD e.kind = false → (post e s).port p = s.port p)
    ∧ ((s.port p).mask.getLsbD e.kind = true → (s.port p).queue.length < 16 →
        (post e s).port p = { s.port p with queue := (s.port p).queue ++ [e] })
    ∧ ((s.port p).mask.getLsbD e.kind = true → 16 ≤ (s.port p).queue.length →
        (post e s).port p = { s.port p with flags := { (s.port p).flags with eventsLost := true } })

/-! ## Resets -/

/-- A cold reset leaves every block at the value of its reset table, the store with all its blocks free and nothing in it, the identity
cells as they stood, and the latch loaded from them; the queue holds the events of the end of the reset alone (R28, R45, R60, R79, R106,
R125, R140, R152, R153, R160, R161, R181, R189). The order of the events within the one instant is the model's choice, log entry 5; which
identity bits are wrong is its own record, log entry 8. -/
def Obligations.ColdResetLeaves : Prop :=
  ∀ s : State, s.ident.slots.length = 8 → ∃ t, exec .coldReset s = .next t ∧ AfterReset s t
    ∧ t.store.free = List.range 512 ∧ t.store.retired = [] ∧ t.store.directory = [] ∧ t.store.counter = 1
    ∧ (∀ h, t.store.slot h = none) ∧ t.store.corrected = 0 ∧ t.store.unstored = 0 ∧ t.store.unstoredMark = false
    ∧ t.store.scrubPos = 511 ∧ t.store.clock = 0
    ∧ ∃ events, events = (loadFrom t.ident.descending).2 ++ (if s.punch.tapeLow then [.punchTapeLow 500] else [])
        ++ (if s.punch.switchOff then [.punchOff .switch] else [])
      ∧ t.sPort.queue = events ∧ t.xPort.queue = events

/-- A warm reset, by the pin or by RESTART at either port, leaves the same, keeps the store's blocks, counts and clock, ends every
OPEN message as INCOMPLETE, and posts RESTARTED with its cause first (R45, R60, R79, R107, R125, R140, R152, R153, R160, R161, R181,
R185, R189). The order of the events within the one instant is the model's choice, log entry 5; which identity bits are wrong is its own
record, log entry 8. -/
def Obligations.WarmResetLeaves : Prop :=
  ∀ (s : State) (c : Instr) (cause : ResetCause),
    (c = .warmReset ∧ cause = .pin) ∨ (∃ p, c = .restart p ∧ cause = .port p) →
    s.ident.slots.length = 8 → ∃ t, exec c s = .next t ∧ AfterReset s t
    ∧ t.store.directory = s.store.directory.map (fun r => { r with
        state := if r.state = .opened then .incomplete else r.state
        closedAt := if r.state = .opened then some s.store.clock else r.closedAt
        holder := none
        readers := 0
        delivery := if r.delivery = .sending then .ready else r.delivery })
    ∧ t.store.memory = s.store.memory ∧ t.store.free = s.store.free ∧ t.store.retired = s.store.retired
    ∧ t.store.counter = s.store.counter ∧ t.store.corrected = s.store.corrected ∧ t.store.unstored = s.store.unstored
    ∧ t.store.clock = s.store.clock ∧ (∀ h, t.store.slot h = none) ∧ t.store.scrubPos = 511 ∧ t.store.unstoredMark = false
    ∧ ∃ events, events = .restarted cause :: (loadFrom t.ident.descending).2
        ++ (if s.punch.tapeLow then [.punchTapeLow 500] else []) ++ (if s.punch.switchOff then [.punchOff .switch] else [])
      ∧ t.sPort.queue = events ∧ t.xPort.queue = events

/-! ## Invariants that every step keeps -/

/-- The state after reset is sound, in every sense the invariants below keep. -/
def Obligations.ResetIsSound : Prop :=
  State.reset.store.Sound ∧ State.reset.store.SlotsAgree ∧ State.reset.Bounded ∧ State.reset.Resting

/-- Every step keeps a sound store: each of the 512 blocks in one place, distinct numbers, the directory within 48, the memory
canonical (R83, R84). -/
def Obligations.StoreStaysSound : Prop :=
  ∀ s t : State, s.store.Sound → step s = .next t → t.store.Sound

/-- Every step keeps the open slots and the records in agreement: at most one OPEN message for each holder, named by its slot
(R85, R87). -/
def Obligations.OpenSlotsStayInAgreement : Prop :=
  ∀ s t : State, s.store.Sound → s.store.SlotsAgree → step s = .next t → t.store.SlotsAgree

/-- Every step keeps every queue within its capacity, the arbiter's list without repeats and the quality record in its ranges
(R30, R31, R38, R52, R76, R126, R142, R186). -/
def Obligations.QueuesStayBounded : Prop :=
  ∀ s t : State, s.Bounded → step s = .next t → t.Bounded

/-- No step turns an identity cell from 0 to 1: positions, length, check code, count cells, commit markers and the protect marker
(R153). -/
def Obligations.IdentityCellsOnlyFall : Prop :=
  ∀ s t : State, step s = .next t → s.ident.Falls t.ident

/-- Whatever is taken but a reset, a port at which it was not taken only grows: its answer, its mask and its lines stand, its entries
stay in their order, its flags stay set; and at the port at which a command was taken that is neither READ EVENTS nor STATUS, entries
and flags stay too (R183, R186, R187, R188). -/
def Obligations.PortsOnlyGrow : Prop :=
  ∀ (c : Instr) (s t : State) (q : Port), isReset c = false → exec c s = .next t →
    (commandPort c ≠ some q → (s.port q).Grows (t.port q))
    ∧ ((∀ n, c ≠ .readEvents q n) → (s.port q).queue <+: (t.port q).queue)
    ∧ (c ≠ .status q → (s.port q).flags.le (t.port q).flags)

/-! ## The Line Unit (chapter 2) -/

/-- CONFIGURE LINE stores each present setting, clamped where R21 clamps it, leaves the absent ones, and answers every stored value; one
bad rate, stop or on/off value refuses the whole command RANGE; a break time that the elapsed space already reaches in SPACING-HOLD
declares the break as it is stored (R26). (Without a rate; R192 refuses an on/off value past 1.) The layout of the results is the model's
choice, log entry 18, and so is that presence bit 7, which names no setting, is ignored, log entry 31. -/
def Obligations.LineSettingsAreStored : Prop :=
  ∀ (p : Port) (presence rate stop : Byte) (brk : Half) (thr tx rx rel : Byte) (ms : Nat) (s : State),
    let c : Instr := .configureLine p presence rate stop brk thr tx rx rel ms
    let bad := (presence.getLsbD 0 = true ∧ 5 < rate.toNat)
      ∨ (presence.getLsbD 1 = true ∧ stop.toNat ≠ 64 ∧ stop.toNat ≠ 96 ∧ stop.toNat ≠ 128)
      ∨ (presence.getLsbD 4 = true ∧ 1 < tx.toNat) ∨ (presence.getLsbD 5 = true ∧ 1 < rx.toNat)
    let l : LineUnit := { s.line with
      stopLen := if presence.getLsbD 1 then stop.toNat else s.line.stopLen
      breakMs := if presence.getLsbD 2 then max 100 (min 2000 brk.toNat) / 10 * 10 else s.line.breakMs
      threshold := if presence.getLsbD 3 then min 50 thr.toNat else s.line.threshold
      txUsos := if presence.getLsbD 4 then tx == 1 else s.line.txUsos
      rxUsos := if presence.getLsbD 5 then rx == 1 else s.line.rxUsos
      releaseTenths := if presence.getLsbD 6 then max 1 (min 50 rel.toNat) else s.line.releaseTenths }
    let stored : Answer := ⟨0x10, .done, none,
      [byteOf l.rate, byteOf l.stopLen, byteOf (l.breakMs / 256), byteOf l.breakMs, byteOf l.threshold, boolOf l.txUsos,
        boolOf l.rxUsos, byteOf l.releaseTenths, optByte l.pendingRate]⟩
    (bad → exec c s = .next (s.answer p ⟨0x10, .refused, some .range, []⟩))
    ∧ (¬ bad → presence.getLsbD 0 = false →
        (presence.getLsbD 2 = false ∨ s.line.rx ≠ .spacingHold ∨ s.line.breakDeclared = true ∨ ms < l.breakMs) →
        Leaves c s ((s.setLine l).answer p stored))
    ∧ (¬ bad → presence.getLsbD 0 = false → presence.getLsbD 2 = true → s.line.rx = .spacingHold → s.line.breakDeclared = false →
        l.breakMs ≤ ms → s.Unheeded → Brings c s ((s.setLine l).broken.answer p stored))

/-- A new rate is taken at once while the receiver is HUNTING or OFF, the transmitter IDLE and no answer-back text in progress,
with LINE RATE posted; else it waits as the pending rate, answered STARTED, until LINE_RATE makes it under the same conditions;
the current rate given again cancels a pending one (R20). That LINE RATE is posted for a change made at once too is the model's reading of
R20, log entry 28; the layout of the results is its choice, log entry 18, and so is that LINE_RATE changes nothing where no rate is pending
or its conditions do not hold, log entry 3. -/
def Obligations.RatesChangeBetweenCharacters : Prop :=
  ∀ (p : Port) (rate : Byte) (ms : Nat) (s : State), rate.toNat ≤ 5 →
    let c : Instr := .configureLine p 1 rate 0 0 0 0 0 0 ms
    let free := (s.line.rx = .hunting ∨ s.line.rx = .off) ∧ s.line.txChar = none ∧ s.line.abState ≠ .sending
    let made (r : Nat) : State := post (.lineRate r) (s.setLine { s.line with rate := r, pendingRate := none }.pass)
    (rate.toNat = s.line.rate →
      ∃ u : State, u = s.setLine { s.line with pendingRate := none }.pass
        ∧ Leaves c s (u.answer p ⟨0x10, .done, none, u.line.settingBytes⟩))
    ∧ (rate.toNat ≠ s.line.rate → free →
      Leaves c s ((made rate.toNat).answer p ⟨0x10, .done, none, (made rate.toNat).line.settingBytes⟩))
    ∧ (rate.toNat ≠ s.line.rate → ¬ free →
      ∃ u : State, u = s.setLine { s.line with pendingRate := some rate.toNat }
        ∧ Leaves c s (u.answer p ⟨0x10, .started, none, u.line.settingBytes⟩))
    ∧ (∀ r, s.line.pendingRate = some r → free → Leaves .lineRate s (made r))
    ∧ (s.line.pendingRate = none ∨ ¬ free → exec .lineRate s = .next s)

/-- RECEIVE OFF stops the receiver where it stands and gives no symbol; RECEIVE ON enters HUNTING with the line at mark and
SPACING-HOLD, no break declared, with it at space; each is answered DONE with no change where it changes nothing (R28). -/
def Obligations.ReceiverTurnsOnAndOff : Prop :=
  ∀ (p : Port) (s : State),
    (s.line.rx = .off → exec (.receiveOff p) s = .next (s.answer p ⟨0x12, .done, none, []⟩))
    ∧ (s.line.rx ≠ .off → exec (.receiveOff p) s = .next ((s.setLine { s.line with
        rx := .off, breakDeclared := false, maxDisp := 0, units := [] }).answer p ⟨0x12, .done, none, []⟩))
    ∧ (s.line.rx ≠ .off → exec (.receiveOn p) s = .next (s.answer p ⟨0x11, .done, none, []⟩))
    ∧ (s.line.rx = .off → s.pins.lineMark = true → exec (.receiveOn p) s = .next ((s.setLine { s.line with
        rx := .hunting, maxDisp := 0, units := [] }).answer p ⟨0x11, .done, none, []⟩))
    ∧ (s.line.rx = .off → s.pins.lineMark = false → exec (.receiveOn p) s = .next ((s.setLine { s.line with
        rx := .spacingHold, breakDeclared := false, maxDisp := 0, units := [] }).answer p ⟨0x11, .done, none, []⟩))

/-- TRANSMIT OFF and ON set transmit enable, and ON gives the grant to the head of the list where nobody holds it and no rate change is
pending; while it is OFF a free transmitter takes no character but answer-back text in progress, and the head of the list gets no grant.
The release interval's expiry takes the grant from KEYBOARD and gives it to the head of the list. A request joins the tail of the list,
once, and is granted at once where nobody holds the grant; one who leaves goes out of the list, and the grant, where it held it, passes to
the head of what remains (R36, R38 to R41). That the expiry of an interval that does not run changes
nothing is the model's choice, log entry 3. -/
def Obligations.TheGrantPasses : Prop :=
  (∀ (l : LineUnit) (r : Requester), l.request r = l.asked r)
  ∧ (∀ l : LineUnit,
    (∀ q qs, l.holder = none → l.txEnable = true → l.pendingRate = none → l.requests = q :: qs →
        l.pass = { l with holder := some q, requests := qs })
    ∧ (l.holder ≠ none ∨ l.txEnable = false ∨ l.pendingRate ≠ none ∨ l.requests = [] → l.pass = l))
  ∧ (∀ (l : LineUnit) (r : Requester),
    let others := l.requests.filter fun q => q ≠ r
    let run := if r = .keyboard then none else l.releaseRun
    l.withdraw r = { l with requests := others }
    ∧ (l.holder ≠ some r → l.release r = l ∧ l.leave r = { l with requests := others } ∧ (r ∉ l.requests → l.leave r = l))
    ∧ (l.holder = some r → l.release r = { l with holder := none, releaseRun := run }.pass
      ∧ (∀ q qs, l.txEnable = true → l.pendingRate = none → others = q :: qs →
          l.leave r = { l with holder := some q, requests := qs, releaseRun := run })
      ∧ (l.txEnable = false ∨ l.pendingRate ≠ none ∨ others = [] →
          l.leave r = { l with holder := none, requests := others, releaseRun := run })))
  ∧ (∀ (p : Port) (s : State),
    exec (.transmitOff p) s = .next ((s.setLine { s.line with txEnable := false }).answer p ⟨0x14, .done, none, []⟩)
    ∧ Leaves (.transmitOn p) s ((s.setLine { s.line with txEnable := true }.pass).answer p ⟨0x13, .done, none, []⟩)
    ∧ (∀ r rs, s.line.holder = none → s.line.pendingRate = none → s.line.requests = r :: rs →
        { s.line with txEnable := true }.pass = { s.line with txEnable := true, holder := some r, requests := rs })
    ∧ (∀ r rs k, s.line.holder = none → s.line.pendingRate = none → s.line.requests = r :: rs → s.line.txChar = some k →
        s.kb.typeahead = [] → .keyboard ∉ rs → exec (.transmitOn p) s = .next ((s.setLine { s.line with
          txEnable := true, holder := some r, requests := rs }).answer p ⟨0x13, .done, none, []⟩))
    ∧ (∀ k, s.line.holder ≠ none ∨ s.line.pendingRate ≠ none ∨ s.line.requests = [] → s.line.txChar = some k →
        s.kb.typeahead = [] → .keyboard ∉ s.line.requests → exec (.transmitOn p) s = .next ((s.setLine { s.line with
          txEnable := true }).answer p ⟨0x13, .done, none, []⟩)))
  ∧ (∀ s : State, s.line.txEnable = false → s.line.txChar = none → s.line.abState ≠ .sending →
      (kick s).line.txChar = none ∧ (s.line.holder = none → (kick s).line.holder = none))
  ∧ ∀ s : State,
    (∀ n, s.line.releaseRun = some n → s.line.holder = some .keyboard →
      Leaves .releaseIntervalExpiry s (s.setLine { s.line with releaseRun := none, holder := none }.pass)
      ∧ (∀ r rs k, s.line.txEnable = true → s.line.pendingRate = none → s.line.requests = r :: rs → s.line.txChar = some k →
          s.kb.typeahead = [] → .keyboard ∉ rs → exec .releaseIntervalExpiry s = .next (s.setLine { s.line with
            releaseRun := none, holder := some r, requests := rs }))
      ∧ (∀ k, s.line.txEnable = false ∨ s.line.pendingRate ≠ none ∨ s.line.requests = [] → s.line.txChar = some k →
          s.kb.typeahead = [] → .keyboard ∉ s.line.requests → exec .releaseIntervalExpiry s = .next (s.setLine { s.line with
            releaseRun := none, holder := none })))
    ∧ (s.line.releaseRun = none → exec .releaseIntervalExpiry s = .next s)

/-- READ LINE QUALITY answers the quality record, the threshold, the receiver, the transmitter, the rates, the grant, the list and
the answer-back, and changes no state (R33, R193). That break declared reads 1 for yes is the model's choice, log entry 50. -/
def Obligations.LineQualityIsRead : Prop :=
  ∀ (p : Port) (s : State), exec (.readLineQuality p) s = .next (s.answer p ⟨0x15, .done, none,
    [byteOf s.line.lastP, byteOf s.line.peakP, byteOf (s.line.received / 256), byteOf s.line.received,
      byteOf (s.line.overCount / 256), byteOf s.line.overCount, byteOf (s.line.framingCount / 256), byteOf s.line.framingCount,
      byteOf s.line.threshold, byteOf s.line.rx.index, boolOf s.line.breakDeclared, boolOf s.line.txChar.isSome,
      boolOf s.line.txEnable, byteOf s.line.rate, optByte s.line.pendingRate, optByte (s.line.holder.map Requester.index),
      byteOf s.line.requests.length] ++ s.line.requests.map (fun r => byteOf r.index)
      ++ [byteOf s.line.abState.index, byteOf s.line.absorbed]⟩)

/-- A start edge in HUNTING starts a character; at slot 32 it is a false start if mark has returned, and ASSEMBLING otherwise; each
unit sample takes the level of the line (R22, R23, R24). -/
def Obligations.CharactersAreAssembled : Prop :=
  ∀ s : State,
    (s.line.rx = .hunting → s.pins.lineMark = true → exec .startEdge s = .next { s with
      pins := { s.pins with lineMark := false }
      line := { s.line with rx := .starting, maxDisp := 0, units := [], lastFall := 0 } })
    ∧ (s.line.rx = .off → s.pins.lineMark = true →
        exec .startEdge s = .next { s with pins := { s.pins with lineMark := false } })
    ∧ (s.line.rx = .starting → s.pins.lineMark = true → exec .startCheck s = .next { s with
        line := { s.line with rx := .hunting, maxDisp := 0, units := [] } })
    ∧ (s.line.rx = .starting → s.pins.lineMark = false → exec .startCheck s = .next { s with
        line := { s.line with rx := .assembling } })
    ∧ (s.line.rx = .assembling → s.line.units.length < 5 → exec .unitSample s = .next { s with
        line := { s.line with units := s.line.units ++ [s.pins.lineMark] } })

/-- A transition at slot t of the character under reception is timed against the boundary k = (t + 32) / 64: d = t - 64 k lies
between -32 and +31, and the character's displacement is the largest |d|, 0 from the start edge on; transitions from slot 416 on are
not timed, and a false start and RECEIVE OFF discard the measurement (R29). That the row of such a transition leaves the whole state, the
pin with it, is the model's choice, log entries 3 and 41. -/
def Obligations.TransitionsAreTimed : Prop :=
  (∀ (slot : Nat) (s : State), s.line.rx = .starting ∨ s.line.rx = .assembling → 1 ≤ slot → slot < 416 →
    ∃ (d : Int) (t : State), d = (slot : Int) - 64 * ((slot + 32) / 64 : Nat) ∧ -32 ≤ d ∧ d ≤ 31
      ∧ exec (.timedTransition slot) s = .next t
      ∧ t = { s with pins := { s.pins with lineMark := !s.pins.lineMark }
                     line := { s.line with maxDisp := max s.line.maxDisp d.natAbs, lastFall := t.line.lastFall } })
  ∧ (∀ (slot : Nat) (s : State), 416 ≤ slot ∨ slot = 0 → exec (.timedTransition slot) s = .next s)
  ∧ (∀ s : State, s.line.rx = .hunting → s.pins.lineMark = true → ∃ t, exec .startEdge s = .next t ∧ t.line.maxDisp = 0)
  ∧ (∀ s : State, s.line.rx = .starting → s.pins.lineMark = true → ∃ t, exec .startCheck s = .next t ∧ t.line.maxDisp = 0)
  ∧ (∀ (p : Port) (s : State), s.line.rx ≠ .off → ∃ t, exec (.receiveOff p) s = .next t ∧ t.line.maxDisp = 0)

/-- At each stop sample last p, peak p and the three counts are updated, saturating at 65535; "exceeds" is strictly greater, so that
at threshold 50 no character exceeds; CALL IN and CALL OUT clear peak p, the counts and the distortion reported mark and keep last p;
every reset clears every field (R31). -/
def Obligations.QualityRecordIsKept : Prop :=
  (∀ s : State, s.line.rx = .assembling → s.line.units.length = 5 →
    ∃ (p : Nat) (t : State), p = (100 * s.line.maxDisp + 32) / 64 ∧ exec .stopSample s = .next t
      ∧ t.line.lastP = p ∧ t.line.peakP = max s.line.peakP p ∧ t.line.received = min 65535 (s.line.received + 1)
      ∧ t.line.overCount = (if s.line.threshold < p then min 65535 (s.line.overCount + 1) else s.line.overCount)
      ∧ t.line.framingCount = (if s.pins.lineMark then s.line.framingCount else min 65535 (s.line.framingCount + 1))
      ∧ (s.line.maxDisp ≤ 32 → p ≤ 50))
  ∧ (∀ (c : Instr) (s : State), (∃ p, c = .callIn p ∨ c = .callOut p) → s.calls.state = .idle →
    ∃ t, exec c s = .next t ∧ t.line.peakP = 0 ∧ t.line.received = 0 ∧ t.line.overCount = 0 ∧ t.line.framingCount = 0
      ∧ t.line.distReported = false ∧ t.line.lastP = s.line.lastP)
  ∧ (∀ (c : Instr) (s : State), isReset c = true →
    ∃ t, exec c s = .next t ∧ t.line.lastP = 0 ∧ t.line.peakP = 0 ∧ t.line.received = 0 ∧ t.line.overCount = 0
      ∧ t.line.framingCount = 0 ∧ t.line.distReported = false)

/-- What the stop sample makes of the five units: with mark, the code in class N where it is neutral, a shift setting RX case, and
else in the class of RX case, which SPACE sets to LETTERS under RX-USOS; with space, the code mutilated in the class of RX case, which
stands; unit k is bit k of the code (R1, R8, R10, R11). -/
def Obligations.ReceivedSymbolsAreClassed : Prop :=
  (∀ a b c d e : Bool, codeOfUnits [a, b, c, d, e] = BitVec.ofBool e ++ BitVec.ofBool d ++ BitVec.ofBool c ++ BitVec.ofBool b
    ++ BitVec.ofBool a)
  ∧ ∀ (rx : Case2) (usos : Bool) (code : BitVec 5),
    let cls : Cls := if rx = .letters then .letters else .figures
    let isNeutral := code.toNat ∈ [0, 1, 2, 16, 30, 31]
    classify rx usos code false = (⟨code, cls, true⟩, rx)
    ∧ (¬ isNeutral → classify rx usos code true = (⟨code, cls, false⟩, rx))
    ∧ (isNeutral → classify rx usos code true = (⟨code, .neutral, false⟩,
        if code = 30 then .figures else if code = 31 ∨ (code = 16 ∧ usos = true) then .letters else rx))

/-- A stop sample enters its character in the quality record, delivers its symbol to the printer and, through the gate, to the punch,
dropped with PRINT LOST or PUNCH LOST and the owed marks where one cannot take it, and to the store, where it opens a received message or
joins the open one with its quality, or is lost as TRUNCATED or unstored; the history takes it unless it is an explicit shift or BLANK,
and the matching triggers act in entry order, each with its TRIGGER event, and empty it; a running capture takes it and ends at 20; a WRU
asks for an answer-back; in an unattended call the symbol that brings the mutilated count to its limit requests a clear, which ends a
running capture; a break time already passed is declared a break last, its holds heeded by no automatic send or collection; nothing else
is touched, and both ports are told alike (no channel at work where a message changes; with a capture only where no trigger matches; no
automatic send in an unattended call) (R10, R24 to R26, R30 to R32, R65 to R67, R71, R76 to R78, R90 to R92, R163, R170, R172, R173,
R175). That the symbol which reaches the limit, ending a running capture by its clear request, also makes the phase CAPTURE become TRAFFIC
and writes the remote identity is the model's reading, log entry 30: R172 ends the capture under R170 and says too that the phase keeps
its value. Two orders that this instant leaves open, log entries 5 and 15, change none of these states but for the model's counter of free
values, log entry 14. -/
def Obligations.StopSampleDelivers : Prop :=
  ∀ (s : State) (y : Symbol) (rx : Case2), s.line.rx = .assembling → s.line.units.length = 5 →
    classify s.line.rxCase s.line.rxUsos (codeOfUnits s.line.units) s.pins.lineMark = (y, rx) →
    let mark := s.pins.lineMark
    let p := (100 * s.line.maxDisp + 32) / 64
    let above := decide (s.line.threshold < p)
    let toPrinter := s.dist.rowReceive.printer
    let toPunch := s.dist.rowReceive.punch && (!s.dist.gated || s.dist.gateOpen)
    let toStore := s.dist.rowReceive.store || s.dist.storeAdd
    let lostPrint := toPrinter && s.printer.offer != .takes
    let lostPunch := toPunch && s.punch.offer != .takes
    let count (b : Bool) (n : Nat) := if b then min 65535 (n + 1) else n
    let owing (m : Record) : Record := { m with
      printOwed := m.printOwed || lostPrint, punchOwed := m.punchOwed || lostPunch }
    let graded (m : Record) : Record := { owing m with
      worstP := max m.worstP p, overCount := count above m.overCount, mutilatedCount := count y.mutilated m.mutilatedCount }
    let changed (d : List Record) (n : Nat) (f : Record → Record) := d.map fun q => if q.number = n then f q else q
    let flagged (f : Flags) : Flags := { f with
      framingSeen := f.framingSeen || !mark, distortionSeen := f.distortionSeen || above
      printLost := f.printLost || lostPrint, punchLost := f.punchLost || lostPunch }
    let calling (s : State) := s.calls.state = .incoming ∨ s.calls.state = .outgoing
    -- the space from its last fall to slot 416, in slots of 1 / 4915.2 ms times the divisor
    let late := mark = false ∧ s.line.breakMs * 49152 ≤ (416 - s.line.lastFall) * Config.divisor s.line.rate * 10
    ∃ (left : LineUnit) (told base stored seen final : State),
      left = { s.line with
        rx := if mark then .hunting else .spacingHold, rxCase := rx, breakDeclared := s.line.breakDeclared && mark
        lastP := p, peakP := max s.line.peakP p, received := count true s.line.received, overCount := count above s.line.overCount
        framingCount := count (!mark) s.line.framingCount, distReported := s.line.distReported || above
        maxDisp := left.maxDisp, units := left.units }
      ∧ told = (if above && !s.line.distReported then post (.distortion p) s else s)
      ∧ base = { s with
        line := left
        printer := if toPrinter && s.printer.offer == .takes then s.printer.accept y else s.printer
        punch := if toPunch && s.punch.offer == .takes then s.punch.accept y else s.punch
        calls := { s.calls with idleT := if calling s then some s.calls.idle else s.calls.idleT }
        sPort := { told.sPort with flags := flagged told.sPort.flags }
        xPort := { told.xPort with flags := flagged told.xPort.flags } }
      -- the store
      ∧ (toStore = false → stored = match s.store.slotLine with
          | none => base
          | some n => base.setStore { s.store with directory := changed s.store.directory n owing })
      ∧ (toStore = true → s.store.slotLine = none → 48 ≤ s.store.directory.length →
          let unstored : State := base.setStore { s.store with unstored := min 65535 (s.store.unstored + 1), unstoredMark := true }
          stored = if s.store.unstoredMark then unstored else post (.storeFull 0 .directory) unstored)
      ∧ (∀ (n : Nat) (r : Record) (opened : Store) (begun : State), toStore = true → s.store.Sound → s.ch0 = none → s.ch1 = none →
          (s.store.slotLine = some n ∧ opened = s.store ∧ begun = base
            ∨ s.store.slotLine = none ∧ s.store.directory.length < 48 ∧ begun = post (.messageOpened n) base
              ∧ (∃ k, n = nextNumber^[k] s.store.counter ∧ ∀ j, j < k → ∃ q ∈ s.store.directory, q.number = nextNumber^[j] s.store.counter)
              ∧ (∀ q ∈ s.store.directory, q.number ≠ n)
              ∧ opened = { s.store with
                counter := if n = 9999 then 1 else n + 1, slotLine := some n, unstoredMark := false
                directory := s.store.directory ++ [{
                  number := n, kind := .received, state := .opened, holder := some .line, damaged := false, truncated := false,
                  printOwed := false, punchOwed := false, openedAt := s.store.clock, closedAt := none, worstP := 0, overCount := 0,
                  mutilatedCount := 0, remote := [], expected := [], destination := [], delivery := .none, attempts := 0,
                  readers := 0, chain := [] }] }) →
          opened.find n = some r → r.kind = .received → opened.Clean r →
          let atLimit := y.mutilated = true ∧ s.calls.snapshot = some .unattended ∧ s.calls.state = .incoming ∧ s.calls.mutLimit ≠ 0
            ∧ count true r.mutilatedCount = s.calls.mutLimit
          (atLimit → s.calls.auto = none) →
          let clearing : Calls := { s.calls with state := .clearing, clearGuardT := true, settleT := none, idleT := none }
          let got := s.calls.captured
          let limited (u : State) : State :=
            if atLimit then
              if s.calls.capturing then
                let status : CapStatus := if got = [] then .timeout else .captured
                post (.capture status got.length (got.take 4)) { post (.clearRequested .mutilation) u with
                  calls := { clearing with
                    capturing := false, captureStartT := false, captureGapT := false, status := status
                    phase := if s.calls.phase = some .capture then some .traffic else s.calls.phase }
                  store := { u.store with directory := changed u.store.directory n (fun m =>
                    if s.calls.phase = some .capture ∧ got ≠ [] then { m with remote := got } else m) } }
              else post (.clearRequested .mutilation) { u with calls := clearing }
            else u
          let room := (∃ b, r.chain.getLast? = some b ∧ b.damaged = false ∧ b.fill < 32) ∨ s.store.free ≠ []
          (room → ∃ (t : Store) (chain : List ChainBlock) (taken : Nat), stored = limited (begun.setStore t)
            ∧ t.textOf n = opened.textOf n ++ [y.toByte] ∧ (∀ m, m ≠ n → t.textOf m = opened.textOf m)
            ∧ t.directory = changed opened.directory n (fun m => { graded m with chain := chain })
            ∧ t.free = s.store.free.drop taken ∧ chain.map (·.block) = r.chain.map (·.block) ++ s.store.free.take taken
            ∧ taken ≤ 1 ∧ s.store.Rewritten t (r.lastOpen ++ s.store.free.take taken)
            ∧ t = { opened with memory := t.memory, wrongBits := t.wrongBits, free := t.free, directory := t.directory })
          ∧ (¬ room → stored = limited ((if r.truncated then begun else post (.storeFull n .blocks) begun).setStore { opened with
              directory := changed opened.directory n (fun m => { graded m with truncated := true }) })))
      -- the triggers
      ∧ (let eligible := y.kind ≠ .explicitShift ∧ y.kind ≠ .blank
        let h := (s.dist.history ++ [y]).drop (s.dist.history.length + 1 - 8)
        let found : List (Nat × TriggerAction) := (List.range s.dist.triggers.length).filterMap fun n =>
          match s.dist.triggers.getD n none with
          | some e => if e.enable && Matches e.pattern (h.drop (h.length - e.pattern.length)) then some (n, e.action) else none
          | none => none
        let joined : State := stored.setDist { s.dist with history := h }
        let emptied : State := stored.setDist { s.dist with history := [] }
        (stored.calls.capturing = false → ¬ eligible → seen = stored)
        ∧ (stored.calls.capturing = false → eligible → found = [] → seen = joined)
        ∧ (stored.calls.capturing = false → eligible → found ≠ [] →
            (∀ q ∈ found, q.2 = .report ∨ q.2 = .openGate ∨ q.2 = .shutGate) →
            seen = (postAll (found.map fun q => .trigger q.1) stored).setDist { s.dist with
              history := []
              gateOpen := found.foldl (fun g q => if q.2 = .openGate then true else if q.2 = .shutGate then false else g)
                s.dist.gateOpen })
        ∧ (∀ n, stored.calls.capturing = false → eligible → found = [(n, .endMessage)] →
            (stored.store.slotLine = none → seen = post (.trigger n) emptied)
            ∧ (∀ m r, stored.store.slotLine = some m → stored.store.find m = some r → r.holder = some .line → stored.ch0 = none →
                stored.ch1 = none →
                seen = post (.trigger n) (post (.messageClosed m .closed) (emptied.setStore { stored.store with
                  slotLine := none
                  directory := changed stored.store.directory m (fun q => { q with
                    state := .closed, closedAt := some stored.store.clock, holder := none }) }))))
        ∧ (∀ n, stored.calls.capturing = false → eligible → found = [(n, .clearRequest)] →
            (stored.calls.state = .idle ∨ stored.calls.state = .clearing → seen = post (.trigger n) emptied)
            ∧ (calling stored → stored.calls.auto = none →
                seen = post (.trigger n) (post (.clearRequested .trigger) { emptied with calls := { stored.calls with
                  state := .clearing, clearGuardT := true, settleT := none, idleT := none } })))
        ∧ (∀ n, stored.calls.capturing = false → eligible → found = [(n, .sendHeld)] →
            let caller := stored.calls.snapshot = some .unattended ∧ stored.calls.state = .incoming
              ∧ stored.calls.phase = some .traffic ∧ stored.calls.status = .captured ∧ stored.calls.coll = none
            let d := stored.store.directory
            let mine (r : Record) := r.CollectedBy stored.calls.captured
            (¬ caller → seen = post (.trigger n) emptied)
            ∧ (caller → (∀ r ∈ d, mine r = false) → seen = post (.trigger n) (post (.collectionDone 0 0) emptied))
            ∧ (∀ (before after : List Record) (r : Record) (b : ChainBlock) (bs : List ChainBlock), caller → d = before ++ r :: after →
                (∀ q ∈ before, mine q = false) → mine r = true → (d.map (·.number)).Nodup → r.chain = b :: bs → 1 ≤ b.fill →
                b.damaged = false → stored.store.wrongOf b.block = [] → stored.ch0 = none →
                seen = post (.trigger n) (({ emptied with
                  calls := { stored.calls with
                    phase := some .collection, coll := some ⟨(after.filter mine).map (·.number), some (r.number, .ch0), 0, 0⟩ }
                  store := { stored.store with directory := changed d r.number (fun q => { q with delivery := .sending }) }
                    } : State).sends .ch0 r.number b)))
        -- the capture
        ∧ (s.calls.capturing = true → (¬ eligible ∨ found = []) → stored.calls = base.calls →
            let skip := ¬ eligible ∨ ((y.kind = .cr ∨ y.kind = .lf) ∧ s.calls.captured = [])
            let drawn : State := (if eligible then joined else stored).setFree (s.freeCount + 1)
            (skip → seen = drawn)
            ∧ (¬ skip → s.calls.captured.length < 19 → seen = drawn.setCalls { base.calls with
                captured := s.calls.captured ++ [y], captureStartT := false, captureGapT := true })
            ∧ (¬ skip → s.calls.captured.length = 19 → s.calls.auto = none → s.calls.phase ≠ some .capture →
                seen = post (.capture .captured 20 ((s.calls.captured ++ [y]).take 4)) (drawn.setCalls { base.calls with
                  captured := s.calls.captured ++ [y], capturing := false, captureStartT := false, captureGapT := false
                  status := .captured }))))
      -- a received WRU
      ∧ (let asked := y.kind = .wru ∧ (s.ident.wruResponse = true ∨ seen.calls.snapshot = some .unattended
          ∧ (seen.calls.state = .incoming ∨ seen.calls.state = .clearing))
        (¬ asked → final = seen)
        ∧ (asked → seen.line.abState ≠ .none →
            final = seen.setLine { seen.line with absorbed := min 255 (seen.line.absorbed + 1) })
        ∧ (asked → seen.line.abState = .none → s.ident.latch ≠ none →
            final = seen.setLine { seen.line with abState := .pending, absorbed := 0 })
        ∧ (asked → seen.line.abState = .none → s.ident.latch = none → seen.calls.auto = none →
            final = post (.wruAnswered 0 0 true) seen))
      ∧ (¬ late → Leaves .stopSample s final) ∧ (late → final.Unheeded → Leaves .stopSample s final.broken)

/-- A space period that reaches the break time is declared a break, once: BREAK DETECTED is posted, the break guard of a call in
progress starts, TX case becomes UNKNOWN; the channels that are PENDING, RUNNING or WAITING are held, with CHANNEL HELD, their grant
released (no automatic send or collection that would hear of it); mark returning in SPACING-HOLD enters HUNTING and ends the space period,
and stops the guard where the break was declared (R7, R25 to R27, R38 to R41, R120, R174, R180). That LINE_BREAK changes nothing outside
SPACING-HOLD or once the break is declared is the model's choice, log entry 3, and so is that CH0 is held before CH1, log entry 5. A break
that falls at the stop sample is in StopSampleDelivers, one that CONFIGURE LINE declares in LineSettingsAreStored. -/
def Obligations.BreaksAreDeclaredAndEnd : Prop :=
  (∀ s : State,
    (s.line.rx = .spacingHold → s.line.breakDeclared = false → s.ch0 = none → s.ch1 = none →
      Leaves .lineBreak s (post .breakDetected { s with
        line := { s.line with breakDeclared := true, txCase := .unknown }
        calls := { s.calls with breakGuardT := s.calls.breakGuardT || decide (s.calls.state ≠ .idle) } }))
    ∧ (s.line.rx = .spacingHold → s.line.breakDeclared = false → s.Unheeded → Brings .lineBreak s s.broken)
    ∧ (s.line.rx ≠ .spacingHold ∨ s.line.breakDeclared = true → exec .lineBreak s = .next s))
  ∧ ∀ s : State, s.pins.lineMark = false →
    (s.line.rx = .spacingHold → s.line.breakDeclared = false → exec .markReturn s = .next { s with
      pins := { s.pins with lineMark := true }
      line := { s.line with rx := .hunting, maxDisp := 0, units := [] } })
    ∧ (s.line.rx = .spacingHold → s.line.breakDeclared = true → exec .markReturn s = .next { s with
      pins := { s.pins with lineMark := true }
      line := { s.line with rx := .hunting, maxDisp := 0, units := [], breakDeclared := false }
      calls := { s.calls with breakGuardT := false } })
    ∧ (s.line.rx = .hunting ∨ s.line.rx = .off → exec .markReturn s = .next { s with
      pins := { s.pins with lineMark := true } })

/-- The end of a character frees the transmitter; answer-back text all sent ends with WRU ANSWERED, its count and its absorbed
count; and KEYBOARD, holding the grant in LINE mode with only TRANSMITTER in its row, then gives its head, or first the shift that TX
case requires. A PENDING answer-back begins there, the latch copied, while transmit enable is ON and no rate change is pending, and its
symbols are taken in turn, each after the shift it requires. Each character taken is delivered as SENT, a shift as that shift and a
mutilated symbol as LETTERS, to the printer and the punch of the SENT row, dropped with PRINT LOST or PUNCH LOST and the owed mark where
one cannot take it (R7, R12, R16, R34, R35, R40, R42, R43, R61, R66, R67, R173). -/
def Obligations.CharactersFollowOneAnother : Prop :=
  ∀ (s : State) (k : TxChar), s.line.txChar = some k →
    (s.Resting → exec .characterEnd s = .next { s with line := { s.line with txChar := none } })
    ∧ (s.line.abState = .sending → s.line.abText = [] → s.calls.auto = none →
        Leaves .characterEnd s (post (.wruAnswered s.line.abSent s.line.absorbed false) { s with
          line := { s.line with txChar := none, abState := .none, absorbed := 0, abSent := 0 } }))
    ∧ (∀ y ys, s.kb.typeahead = y :: ys → s.kb.mode = .line → s.dist.rowLine = ⟨true, false, false, false⟩ →
        s.dist.rowSent = ⟨false, false, false, false⟩ → s.calls.state = .idle → s.store.slotLine = none →
        s.line.holder = some .keyboard → s.line.abState = .none → s.line.txEnable = true → s.line.pendingRate = none →
        ∃ t, exec .characterEnd s = .next t
          ∧ ((emission s.line.txCase y).1 = true → t = { s with line := { s.line with
              txChar := some ⟨(emission s.line.txCase y).2, s.line.stopLen, true⟩
              txCase := if (emission s.line.txCase y).2 = 31 then .letters else .figures } })
          ∧ ((emission s.line.txCase y).1 = false →
              t.kb = { s.kb with typeahead := ys }
              ∧ t.line.txChar = some ⟨(emission s.line.txCase y).2, s.line.stopLen, false⟩
              ∧ t.line.txCase = caseAfter s.line.txUsos s.line.txCase (emission s.line.txCase y).2
              ∧ t.line.holder = some .keyboard
              ∧ t.line.releaseRun = (if ys = [] then some s.line.releaseTenths else s.line.releaseRun)
              ∧ t = { s with line := t.line, kb := t.kb }))
    -- the SENT row and the answer-back text
    ∧ (let shift (y : Symbol) := (emission s.line.txCase y).1
      let code (y : Symbol) := (emission s.line.txCase y).2
      let copy (y : Symbol) : Symbol := if shift y = true ∨ y.mutilated = true then ⟨code y, .neutral, false⟩ else y
      let sending (y : Symbol) (l : LineUnit) : LineUnit := { l with
        txChar := some ⟨code y, s.line.stopLen, shift y⟩
        txCase := if code y = 31 then .letters else if code y = 30 then .figures
          else if code y = 16 ∧ s.line.txUsos = true then .letters else s.line.txCase }
      (∀ y ys, s.kb.typeahead = y :: ys → s.kb.mode = .line → s.dist.rowLine = ⟨true, false, false, false⟩ →
        s.line.holder = some .keyboard → .keyboard ∉ s.line.requests → s.line.abState = .none → s.line.txEnable = true →
        s.line.pendingRate = none → exec .characterEnd s = .next (({ s with
          line := { sending y s.line with
            releaseRun := if shift y = false ∧ ys = [] then some s.line.releaseTenths else s.line.releaseRun }
          kb := { s.kb with typeahead := if shift y then y :: ys else ys } } : State).copied (copy y)))
      ∧ ∀ y ys, s.kb.typeahead = [] → .keyboard ∉ s.line.requests →
        (s.line.abState = .sending → s.line.abText = y :: ys → exec .characterEnd s = .next (({ s with
          line := { sending y s.line with
            abText := if shift y then y :: ys else ys
            abSent := if shift y then s.line.abSent else s.line.abSent + 1 } } : State).copied (copy y)))
        ∧ (∀ l : Latch, s.line.abState = .pending → s.ident.latch = some l → l.text = y :: ys → s.line.txEnable = true →
            s.line.pendingRate = none → exec .characterEnd s = .next (({ s with
              line := { sending y s.line with
                abState := .sending, abText := if shift y then y :: ys else ys
                abSent := if shift y then 0 else 1 } } : State).copied (copy y)))
        ∧ (s.line.abState = .pending → s.line.txEnable = false ∨ s.line.pendingRate ≠ none →
            exec .characterEnd s = .next { s with line := { s.line with txChar := none } }))

/-- What is sent for a symbol: its own code where the tracker holds its class or it is neutral; the shift of its class first where
the tracker does not hold it; code 31 for a mutilated symbol; so no class-L code leaves but under LETTERS, and no class-F code but
under FIGURES (R12). -/
def Obligations.ShiftsAreInserted : Prop :=
  ∀ (tracker : Case3) (y : Symbol),
    (y.mutilated = true → emission tracker y = (false, 31))
    ∧ (y.mutilated = false → y.cls = .neutral → emission tracker y = (false, y.code))
    ∧ (y.mutilated = false → y.cls = .letters →
        emission tracker y = (if tracker = .letters then (false, y.code) else (true, 31))
        ∧ (emission (caseAfter false tracker (emission tracker y).2) y = (false, y.code) ∨ emission tracker y = (false, y.code)))
    ∧ (y.mutilated = false → y.cls = .figures →
        emission tracker y = (if tracker = .figures then (false, y.code) else (true, 30))
        ∧ (emission (caseAfter false tracker (emission tracker y).2) y = (false, y.code) ∨ emission tracker y = (false, y.code)))

/-! ## Routing and Recognition (chapter 4) -/

/-- ROUTE replaces, adds to, takes from or toggles a row sink by sink and answers the set it leaves; it refuses RANGE a row or a
function outside the four, a mask that names more than the four sinks, and a set with a sink the row may not hold; where the row of
the keyboard mode in force loses TRANSMITTER, KEYBOARD leaves the arbiter (R40, R63, R64). -/
def Obligations.RoutesAreSet : Prop :=
  ∀ (p : Port) (row function mask : Byte) (s : State),
    let c : Instr := .route p row function mask
    (3 < row.toNat ∨ 3 < function.toNat ∨ 15 < mask.toNat →
      exec c s = .next (s.answer p ⟨0x18, .refused, some .range, []⟩))
    ∧ ∀ (r : RouteRow) (f : Bool → Bool → Bool),
      (r = .receive ∧ row = 0 ∨ r = .sent ∧ row = 1 ∨ r = .line ∧ row = 2 ∨ r = .loc ∧ row = 3) →
      ((∀ o m, f o m = m) ∧ function = 0 ∨ (∀ o m, f o m = (o || m)) ∧ function = 1
        ∨ (∀ o m, f o m = (o && !m)) ∧ function = 2 ∨ (∀ o m, f o m = (o != m)) ∧ function = 3) →
      mask.toNat ≤ 15 →
      let o := s.dist.row r
      let k : SinkSet := ⟨f o.transmitter (mask.getLsbD 0), f o.printer (mask.getLsbD 1), f o.punch (mask.getLsbD 2),
        f o.store (mask.getLsbD 3)⟩
      let allowed := (k.transmitter = true → r = .line ∨ r = .loc) ∧ (k.store = true → r ≠ .sent)
      let lost := (r = .line ∧ s.kb.mode = .line ∨ r = .loc ∧ s.kb.mode = .loc) ∧ o.transmitter = true ∧ k.transmitter = false
      (¬ allowed → exec c s = .next (s.answer p ⟨0x18, .refused, some .range, []⟩))
      ∧ (allowed → ¬ lost → Leaves c s ((s.setDist (s.dist.setRow r k)).answer p ⟨0x18, .done, none, [k.toByte]⟩))
      ∧ (allowed → lost →
          Leaves c s ((leave .keyboard (s.setDist (s.dist.setRow r k))).answer p ⟨0x18, .done, none, [k.toByte]⟩))

/-- SET TRIGGER writes one entry of the table, pattern, enable and action, or empties it; an entry past 3, an enable past 1, an
action past 5, an enabled empty pattern and a position that is an explicit shift, BLANK or no symbol are refused RANGE and change
nothing (R5, R75); SET GATING sets GATED and answers it with the gate's state, a value past 1 refused RANGE (R72,
R192). The layout of the results is the model's choice, log entry 18. -/
def Obligations.TriggersAndGatingAreSet : Prop :=
  (∀ (p : Port) (entry enable action : Byte) (s : State),
    (∀ (ps : List PatPos) (act : TriggerAction), 1 ≤ ps.length → ps.length ≤ 8 → entry.toNat ≤ 3 → enable.toNat ≤ 1 →
      action = byteOf act.index →
      (∀ y, .symbol y ∈ ps → y.wellFormed = true ∧ y.kind ≠ .explicitShift ∧ y.kind ≠ .blank) →
      exec (.setTrigger p entry enable action (ps.map PatPos.toByte)) s = .next ((s.setDist { s.dist with
        triggers := s.dist.triggers.set entry.toNat (some ⟨enable == 1, ps, act⟩) }).answer p ⟨0x19, .done, none,
          [boolOf (enable == 1), byteOf ps.length] ++ ps.map PatPos.toByte ++ [byteOf act.index]⟩))
    ∧ (entry.toNat ≤ 3 → action.toNat ≤ 5 → exec (.setTrigger p entry 0 action []) s = .next ((s.setDist { s.dist with
        triggers := s.dist.triggers.set entry.toNat none }).answer p ⟨0x19, .done, none, [0xFF, 0, 0xFF]⟩))
    ∧ (∀ bytes : List Byte, bytes.length ≤ 8 →
        (3 < entry.toNat ∨ 1 < enable.toNat ∨ 5 < action.toNat ∨ (bytes = [] ∧ enable = 1)
          ∨ ∃ b ∈ bytes, b ≠ 0x7F ∧ ∀ y : Symbol, y.wellFormed = true → y.kind ≠ .explicitShift → y.kind ≠ .blank → y.toByte ≠ b) →
        exec (.setTrigger p entry enable action bytes) s = .next (s.answer p ⟨0x19, .refused, some .range, []⟩)))
  ∧ ∀ (p : Port) (s : State),
    exec (.setGating p 0) s = .next ((s.setDist { s.dist with gated := false }).answer p ⟨0x1A, .done, none,
      [0, if s.dist.gateOpen then 0 else 1]⟩)
    ∧ exec (.setGating p 1) s = .next ((s.setDist { s.dist with gated := true }).answer p ⟨0x1A, .done, none,
      [1, if s.dist.gateOpen then 0 else 1]⟩)
    ∧ ∀ b : Byte, 1 < b.toNat → exec (.setGating p b) s = .next (s.answer p ⟨0x1A, .refused, some .range, []⟩)

/-! ## The Keyboard Scanner (chapter 3) -/

/-- LOAD KEYMAP writes a run of assignments into a plane, position by position, and leaves the others; a run past position 63, a plane
past 1 and one entry that names none of R49's assignments, its symbol byte failing R5 among them, refuse it whole (R5, R49, R50, R191,
R192). The layout of the results is the model's choice, log entry 18. -/
def Obligations.KeymapsAreLoaded : Prop :=
  ∀ (p : Port) (plane first : Byte) (entries : List (Byte × Byte)) (s : State), 1 ≤ entries.length → entries.length ≤ 32 →
    let c : Instr := .loadKeymap p plane first entries
    ((1 < plane.toNat ∨ 64 < first.toNat + entries.length ∨ ∃ e ∈ entries, ∀ a, ¬ Names e a) →
      exec c s = .next (s.answer p ⟨0x20, .refused, some .range, []⟩))
    ∧ ∀ run : List Assignment, List.Forall₂ Names entries run → first.toNat + entries.length ≤ 64 →
      s.kb.plane0.length = 64 → s.kb.plane1.length = 64 →
      let written (old new : List Assignment) := ∀ n, n < 64 →
        new[n]? = if first.toNat ≤ n ∧ n < first.toNat + run.length then run[n - first.toNat]? else old[n]?
      (plane = 0 → ∃ new, written s.kb.plane0 new ∧ exec c s = .next ((s.setKb { s.kb with plane0 := new }).answer p
        ⟨0x20, .done, none, [plane, first, byteOf entries.length]⟩))
      ∧ (plane = 1 → ∃ new, written s.kb.plane1 new ∧ exec c s = .next ((s.setKb { s.kb with plane1 := new }).answer p
        ⟨0x20, .done, none, [plane, first, byteOf entries.length]⟩))

/-- KEYBOARD LOCK sets the port lock mark, KEYBOARD UNLOCK clears both marks; SET KEYBOARD MODE changes the mode with its event, and
to LOCAL takes KEYBOARD out of the arbiter; the mode in force given again changes nothing, and a mode byte past 1 is refused RANGE (R54,
R55, R192). That KEYBOARD keeps a grant it holds when the mode becomes LINE is the model's reading, log entry 34. -/
def Obligations.KeyboardIsLockedAndSwitched : Prop :=
  ∀ (p : Port) (s : State),
    exec (.keyboardLock p) s = .next ((s.setKb { s.kb with portLock := true }).answer p ⟨0x21, .done, none, []⟩)
    ∧ exec (.keyboardUnlock p) s = .next ((s.setKb { s.kb with portLock := false, callLock := false }).answer p
        ⟨0x22, .done, none, []⟩)
    ∧ (s.kb.mode = .line → Leaves (.setKeyboardMode p 0) s (s.answer p ⟨0x23, .done, none, []⟩)
      ∧ Leaves (.setKeyboardMode p 1) s ((leave .keyboard (post (.keyboardMode .loc) (s.setKb { s.kb with mode := .loc }))).answer p
          ⟨0x23, .done, none, []⟩))
    ∧ (s.kb.mode = .loc → Leaves (.setKeyboardMode p 1) s (s.answer p ⟨0x23, .done, none, []⟩)
      ∧ Leaves (.setKeyboardMode p 0) s ((post (.keyboardMode .line) (s.setKb { s.kb with mode := .line })).answer p
          ⟨0x23, .done, none, []⟩))
    ∧ ∀ b : Byte, 1 < b.toNat → exec (.setKeyboardMode p b) s = .next (s.answer p ⟨0x23, .refused, some .range, []⟩)

/-- At the end of each scan a key seen in its confirmed state has its run count at 0; any other has it raised by 1 and, once it
reaches D, changes its confirmed state; so D scans on end confirm a key. CONFIGURE KEYBOARD sets D, clamped to 2 to 8 (R47). -/
def Obligations.KeysAreDebounced : Prop :=
  (∀ (seen : BitVec 64) (s : State), s.kb.keys.length = 64 → ∃ t, exec (.keyScan seen) s = .next t ∧ t.kb.keys.length = 64
    ∧ ∀ n k, s.kb.keys[n]? = some k →
      (seen.getLsbD n = k.down → t.kb.keys[n]? = some ⟨k.down, 0⟩)
      ∧ (seen.getLsbD n ≠ k.down → k.run + 1 < s.kb.confirmCount → t.kb.keys[n]? = some ⟨k.down, k.run + 1⟩)
      ∧ (seen.getLsbD n ≠ k.down → s.kb.confirmCount ≤ k.run + 1 → t.kb.keys[n]? = some ⟨!k.down, 0⟩))
  ∧ (∀ (d n : Nat) (up : Bool), 2 ≤ d →
      (n < d → (fun k : Key => k.scan d (!up))^[n] ⟨up, 0⟩ = ⟨up, n⟩) ∧ (fun k : Key => k.scan d (!up))^[d] ⟨up, 0⟩ = ⟨!up, 0⟩)
  ∧ (∀ (p : Port) (d : Byte) (s : State), ∃ n, n = max 2 (min 8 d.toNat)
      ∧ exec (.configureKeyboard p d) s = .next ((s.setKb { s.kb with confirmCount := n }).answer p
        ⟨0x24, .done, none, [byteOf n]⟩))

/-- One key confirmed down, assigned a symbol in the plane the modifier selects, joins its symbol to the typeahead where the lock is
not in force and there is room, and is discarded with a bell where the typeahead holds 32, or where it is the head and a sink of the row of
the mode in force refuses permanently; under the lock it gives nothing; with TRANSMITTER in that row KEYBOARD asks for the grant, and a free
transmitter takes the symbol, or the shift before it, at once; the modifier is held while a key assigned SHIFT MODIFIER in plane 0 is down
(whatever waits stands still: a character in flight, or nothing to send). A function key acts: HERE IS asks for an answer-back, WRU for an
identity capture in the TRAFFIC phase, BREAK holds the channels and posts KEY BREAK, LINE/LOCAL toggles the mode, SEND starts a channel
PENDING on the SEND KEY, REPORT n posts KEY (n); under the lock HERE IS and SEND do nothing and the others act (R35, R38 to R40, R48,
R49, R52 to R54, R56 to R59, R62, R69, R89, R95, R171). That a symbol not bound for the transmitter stands in the typeahead until the row
KEYBOARD_DELIVERY is the model's reading, log entry 4, and so is that the LINE/LOCAL key from LOCAL to LINE leaves KEYBOARD a grant that it
holds, log entry 34. -/
def Obligations.KeysTypeSymbols : Prop :=
  (∀ (seen : BitVec 64) (s : State) (n : Nat) (y : Symbol) (row : SinkSet),
    let c : Instr := .keyScan seen
    let keys := scanKeys s.kb.confirmCount s.kb.keys seen
    let held := (List.range 64).any fun k =>
      (keys.getD k ⟨false, 0⟩).down && (s.kb.plane0.getD k .none == .shift)
    let kb : Keyboard := { s.kb with keys := keys, modifier := held }
    let joined : State := (s.setKb { kb with typeahead := s.kb.typeahead ++ [y] }).setLine { s.line with releaseRun := none }
    let dropped : State := (s.setKb kb).setPrinter { s.printer with bell := true }
    let locked := s.kb.portLock = true ∨ s.kb.callLock = true
    let known := s.line.holder = some .keyboard ∨ .keyboard ∈ s.line.requests
    -- the sinks of the row that a head would meet
    let filling (r : Record) := ∃ m, s.store.slotKeyboard = some m ∧ s.store.find m = some r ∧ r.kind = .prepared
    let room (r : Record) := ∃ b, r.chain.getLast? = some b ∧ b.damaged = false ∧ b.fill < 32
    let refused := row.printer = true ∧ s.printer.engine = .fault ∨ row.punch = true ∧ s.punch.engine = .off
      ∨ row.store = true ∧ (s.store.slotKeyboard = none ∨ ∃ r, filling r ∧ ¬ room r ∧ s.store.free.length ≤ 16)
    let admitted := (row.printer = true → s.printer.engine ≠ .fault) ∧ (row.punch = true → s.punch.engine ≠ .off)
      ∧ (row.store = true → ∃ r, filling r ∧ (room r ∨ 16 < s.store.free.length))
    s.kb.keys.length = 64 → s.kb.plane0.length = 64 → pressed s.kb.keys keys = [n] →
    (if held then s.kb.plane1 else s.kb.plane0).getD n .none = .symbol y →
    (s.kb.mode = .line ∧ row = s.dist.rowLine ∨ s.kb.mode = .loc ∧ row = s.dist.rowLocal) →
    -- a row without TRANSMITTER
    (row.transmitter = false → .keyboard ∉ s.line.requests →
      s.line.txChar ≠ none ∨ s.line.holder = none ∧ s.line.requests = [] ∧ s.line.abState = .none →
      (locked → exec c s = .next (s.setKb kb))
      ∧ (¬ locked → s.kb.typeahead.length < 32 → s.kb.typeahead ≠ [] ∨ admitted → exec c s = .next joined)
      ∧ (¬ locked → 32 ≤ s.kb.typeahead.length → exec c s = .next dropped))
    -- a head that is refused permanently
    ∧ (¬ locked → s.kb.typeahead = [] → refused → s.line.holder ≠ some .keyboard → .keyboard ∉ s.line.requests →
      s.line.txChar ≠ none ∨ s.line.holder = none ∧ s.line.requests = [] ∧ s.line.abState = .none →
      exec c s = .next (dropped.setLine { s.line with releaseRun := none }))
    -- a row with TRANSMITTER, while a character is in flight
    ∧ (row.transmitter = true → s.line.txChar ≠ none →
      (locked → s.kb.typeahead ≠ [] ∧ known ∨ s.kb.typeahead = [] ∧ .keyboard ∉ s.line.requests → exec c s = .next (s.setKb kb))
      ∧ (¬ locked → s.kb.typeahead.length < 32 → s.kb.typeahead ≠ [] ∨ admitted →
          exec c s = .next (joined.setLine (joined.line.asked .keyboard)))
      ∧ (¬ locked → 32 ≤ s.kb.typeahead.length → known → exec c s = .next dropped))
    -- a row of TRANSMITTER alone, while the transmitter is free
    ∧ (row = ⟨true, false, false, false⟩ → s.kb.mode = .line → ¬ locked → s.kb.typeahead = [] → s.line.txChar = none →
      s.line.holder = none → s.line.requests = [] → s.line.abState = .none → s.line.txEnable = true → s.line.pendingRate = none →
      let shift := (emission s.line.txCase y).1
      let code := (emission s.line.txCase y).2
      exec c s = .next (({ s with
        kb := { kb with typeahead := if shift then [y] else [] }
        line := { s.line with
          holder := some .keyboard
          releaseRun := if shift then none else some s.line.releaseTenths
          txChar := some ⟨code, s.line.stopLen, shift⟩
          txCase := if code = 31 then .letters else if code = 30 then .figures
            else if code = 16 ∧ s.line.txUsos = true then .letters else s.line.txCase } } : State).copied
        (if shift = true ∨ y.mutilated = true then ⟨code, .neutral, false⟩ else y))))
  ∧ ∀ (seen : BitVec 64) (s : State) (n : Nat) (f : Machine.Function),
    let keys := scanKeys s.kb.confirmCount s.kb.keys seen
    let held := (List.range 64).any fun k =>
      (keys.getD k ⟨false, 0⟩).down && (s.kb.plane0.getD k .none == .shift)
    let c : Instr := .keyScan seen
    let u : State := s.setKb { s.kb with keys := keys, modifier := held }
    let locked := s.kb.portLock = true ∨ s.kb.callLock = true
    s.kb.keys.length = 64 → s.kb.plane0.length = 64 → pressed s.kb.keys keys = [n] →
    (if held then s.kb.plane1 else s.kb.plane0).getD n .none = .function f →
    (f = .hereIs → locked → Brings c s u)
    ∧ (f = .hereIs → ¬ locked → s.line.abState = .none → s.ident.latch ≠ none → Brings c s (u.setLine { s.line with
        abState := .pending, absorbed := 0 }))
    ∧ (f = .hereIs → ¬ locked → s.line.abState ≠ .none → Brings c s (u.setLine { s.line with
        absorbed := min 255 (s.line.absorbed + 1) }))
    ∧ (f = .hereIs → ¬ locked → s.line.abState = .none → s.ident.latch = none → s.calls.auto = none →
        Brings c s (post (.wruAnswered 0 0 true) u))
    ∧ (let may := (s.calls.state = .incoming ∨ s.calls.state = .outgoing) ∧ s.calls.phase = some .traffic
          ∧ s.calls.wruPending = false ∧ s.calls.capturing = false
      (f = .wru → ¬ may → Brings c s u)
      ∧ (f = .wru → may → Brings c s { u with
          line := { s.line with control := some ⟨6, .figures, false⟩ }.asked .control
          calls := { s.calls with wruPending := true } }))
    ∧ (f = .breakIn → s.ch0 = none → s.ch1 = none → Brings c s (post .keyBreak u))
    ∧ (∀ ch w, f = .breakIn → s.chan ch = some w → (∀ d, d ≠ ch → s.chan d = none) → (∀ why, w.phase ≠ .held why) →
        (∃ q, w.starter = .port q) → s.line.holder ≠ some (.chan ch) → .chan ch ∉ s.line.requests →
        Brings c s (post .keyBreak (post (.channelHeld ch w.message w.position .key)
          (u.setChan ch (some { w with phase := .held .key })))))
    ∧ (f = .lineLocal → s.kb.mode = .loc → Brings c s (post (.keyboardMode .line) (u.setKb { u.kb with mode := .line })))
    ∧ (f = .lineLocal → s.kb.mode = .line → s.line.holder ≠ some .keyboard → .keyboard ∉ s.line.requests →
        Brings c s (post (.keyboardMode .loc) (u.setKb { u.kb with mode := .loc })))
    ∧ (f = .send → locked ∨ (∀ ch w, s.chan ch = some w → w.phase ≠ .pending ∨ w.trigger ≠ .sendKey) → Brings c s u)
    ∧ (∀ (w : ChanWork) (r : Record) (b : ChainBlock) (bs : List ChainBlock), f = .send → ¬ locked → s.ch0 = some w → s.ch1 = none →
        w.phase = .pending → w.trigger = .sendKey → w.position = 0 → w.copy = none → w.sinks = ⟨true, false, false, false⟩ →
        s.store.find w.message = some r → r.chain = b :: bs → 1 ≤ b.fill → b.damaged = false → s.store.wrongOf b.block = [] →
        Brings c s { u with
          line := s.line.asked (.chan .ch0)
          ch0 := some { w with
            phase := .running, occurred := true
            copy := some ⟨0, (s.store.blockBytes b.block).map Symbol.ofByte, true⟩ } })
    ∧ (∀ m, f = .report m → Brings c s (post (.key m) u))

/-- The head of a typeahead not bound for the transmitter leaves it for the sinks of the row of the mode in force, when all of them take
it, and the rest of the typeahead stays; STORE in the row joins it to the KEYBOARD message's text; it waits while a sink refuses for a time,
nothing changing while nothing else is to be sent; where STORE alone holds it back, no message being open for KEYBOARD, the typeahead is
emptied with a bell (R53, R54, R62, R68, R69, R86, R88, R95). Two clauses are the model's reading of R69, log entry 47: that a head which
already waits goes on waiting behind a sink that refuses for a time, whatever STORE or another sink would answer meanwhile, and that STORE
is asked again, and its refusal empties the typeahead, only when every other sink can take the head. -/
def Obligations.KeyboardHeadIsDelivered : Prop :=
  (∀ (s : State) (y : Symbol) (ys : List Symbol), s.kb.typeahead = y :: ys → s.kb.mode = .loc → s.line.holder ≠ some .keyboard →
    (s.dist.rowLocal = ⟨false, true, false, false⟩ → s.printer.offer = .takes →
      Leaves .keyboardDelivery s ((s.setKb { s.kb with typeahead := ys }).setPrinter (s.printer.accept y)))
    ∧ (s.dist.rowLocal = ⟨false, false, true, false⟩ → s.punch.offer = .takes →
      Leaves .keyboardDelivery s ((s.setKb { s.kb with typeahead := ys }).setPunch (s.punch.accept y)))
    ∧ (s.dist.rowLocal = ⟨false, true, true, false⟩ → s.printer.offer = .takes → s.punch.offer = .takes →
      Leaves .keyboardDelivery s (((s.setKb { s.kb with typeahead := ys }).setPrinter (s.printer.accept y)).setPunch
        (s.punch.accept y)))
    ∧ (s.dist.rowLocal = ⟨false, true, true, false⟩ → s.printer.offer ≠ .permanent → s.punch.offer = .forTime →
      s.line.holder = none → s.line.requests = [] → s.line.abState = .none → exec .keyboardDelivery s = .next s))
  ∧ ∀ (s : State) (y : Symbol) (ys : List Symbol) (row : SinkSet), s.kb.typeahead = y :: ys →
    (s.kb.mode = .line ∧ row = s.dist.rowLine ∨ s.kb.mode = .loc ∧ row = s.dist.rowLocal) → row.transmitter = false →
    s.line.holder ≠ some .keyboard → .keyboard ∉ s.line.requests →
    (s.line.txChar ≠ none ∨ s.line.holder = none ∧ s.line.requests = [] ∧ s.line.abState = .none) →
    let given : State := { s with
      kb := { s.kb with typeahead := ys }
      printer := if row.printer then s.printer.accept y else s.printer
      punch := if row.punch then s.punch.accept y else s.punch }
    let ready := (row.printer = true → s.printer.offer = .takes) ∧ (row.punch = true → s.punch.offer = .takes)
    (row.store = false → ready → exec .keyboardDelivery s = .next given)
    ∧ (row.printer = true ∧ s.printer.offer = .forTime ∨ row.punch = true ∧ s.punch.offer = .forTime →
        exec .keyboardDelivery s = .next s)
    ∧ (row.store = true → ready → s.store.slotKeyboard = none →
        exec .keyboardDelivery s =
          .next { s with kb := { s.kb with typeahead := [] }, printer := { s.printer with bell := true } })
    ∧ (∀ n r, row.store = true → ready → s.store.slotKeyboard = some n → s.store.find n = some r → r.kind = .prepared →
        s.store.Sound → s.store.Clean r → s.ch0 = none → s.ch1 = none → 17 < s.store.free.length →
        ∃ (t : Store) (chain : List ChainBlock) (taken : Nat), exec .keyboardDelivery s = .next (given.setStore t)
          ∧ t.textOf n = s.store.textOf n ++ [y.toByte] ∧ (∀ m, m ≠ n → t.textOf m = s.store.textOf m)
          ∧ t.directory = s.store.directory.map (fun q => if q.number = n then { q with chain := chain } else q)
          ∧ t.free = s.store.free.drop taken ∧ chain.map (·.block) = r.chain.map (·.block) ++ s.store.free.take taken
          ∧ taken ≤ 1 ∧ s.store.Rewritten t (r.lastOpen ++ s.store.free.take taken)
          ∧ t = { s.store with memory := t.memory, wrongBits := t.wrongBits, free := t.free, directory := t.directory })

/-! ## The Traffic Store (chapter 5) -/

/-- CREATE opens an empty PREPARED message for the commanding port or KEYBOARD: its number is the first from the counter on that no
record carries, its record joins the directory, the holder's slot is filled; it refuses RANGE, BUSY and FULL in that order (R84, R85,
R89, R93). -/
def Obligations.MessagesAreCreated : Prop :=
  ∀ (p : Port) (choice : Byte) (s : State),
    let h : Holder := if choice = 0 then .port p else .keyboard
    (1 < choice.toNat → exec (.create p choice) s = .next (s.answer p ⟨0x30, .refused, some .range, []⟩))
    ∧ (choice.toNat ≤ 1 → s.store.slot h ≠ none →
        exec (.create p choice) s = .next (s.answer p ⟨0x30, .refused, some .busy, []⟩))
    ∧ (choice.toNat ≤ 1 → s.store.slot h = none → 44 ≤ s.store.directory.length →
        exec (.create p choice) s = .next (s.answer p ⟨0x30, .refused, some .full, []⟩))
    ∧ (choice.toNat ≤ 1 → s.store.slot h = none → s.store.directory.length ≤ 43 → 1 ≤ s.store.counter → s.store.counter ≤ 9999 →
        ∃ k n, n = nextNumber^[k] s.store.counter ∧ 1 ≤ n ∧ n ≤ 9999 ∧ (∀ r ∈ s.store.directory, r.number ≠ n)
          ∧ (∀ j, j < k → ∃ r ∈ s.store.directory, r.number = nextNumber^[j] s.store.counter)
          ∧ exec (.create p choice) s = .next ((s.setStore (({ s.store with
              counter := if n = 9999 then 1 else n + 1
              directory := s.store.directory ++ [{
                number := n, kind := .prepared, state := .opened, holder := some h, damaged := false, truncated := false,
                printOwed := false, punchOwed := false, openedAt := s.store.clock, closedAt := none, worstP := 0, overCount := 0,
                mutilatedCount := 0, remote := [], expected := [], destination := [], delivery := .none, attempts := 0,
                readers := 0, chain := [] }] } : Store).setSlot h (some n))).answer p
              ⟨0x30, .done, none, [byteOf (n / 256), byteOf n]⟩))

/-- APPEND TEXT joins its symbols to the end of the message's text and of no other message's, fresh blocks coming from the head of
the free queue, and refuses NO SUCH, STATE, NOT HOLDER, RANGE in that order, changing nothing, and FULL where the reserve gives no block,
with the symbols that the last block still took and their count; a last block with one wrong bit is first corrected and one with two made
DAMAGED, and the command then goes on as on the block so marked (no channel at work); every refusal carries the count of symbols accepted,
0 but where FULL comes after some (R5, R81, R86, R88, R89, R94, R184). Which bits are wrong is the model's own record, log entry 8. -/
def Obligations.TextIsAppended : Prop :=
  ∀ (p : Port) (message : Half) (text : List Byte) (s : State),
    let c : Instr := .appendText p message text
    let refused (why : Reason) := exec c s = .next (s.answer p ⟨0x31, .refused, some why, [0]⟩)
    1 ≤ text.length → text.length ≤ 32 →
    ((∀ r ∈ s.store.directory, r.number ≠ message.toNat) → refused .noSuch)
    ∧ ∀ r, s.store.find message.toNat = some r →
      (r.state ≠ .opened → refused .state)
      ∧ (r.state = .opened → r.holder ≠ some (.port p) → refused .notHolder)
      ∧ (r.state = .opened → r.holder = some (.port p) → (∃ b ∈ text, ¬ SymbolPasses b) → refused .range)
      ∧ (r.state = .opened → r.holder = some (.port p) → (∀ b ∈ text, SymbolPasses b) →
          (∀ b, r.chain.getLast? = some b → b.damaged = true ∨ 32 ≤ b.fill) → r.kind = .prepared → s.store.free.length ≤ 16 →
          Leaves c s (s.answer p ⟨0x31, .refused, some .full, [0]⟩))
      -- the last block takes what fits, and the reserve gives no other
      ∧ (∀ (b : ChainBlock) (n : Nat), r.state = .opened → r.holder = some (.port p) → (∀ b ∈ text, SymbolPasses b) → s.store.Sound →
          s.store.Clean r → s.ch0 = none → s.ch1 = none → r.kind = .prepared → s.store.free.length ≤ 16 →
          r.chain.getLast? = some b → b.damaged = false → b.fill < 32 → n = min text.length (32 - b.fill) →
          ∃ (t : Store) (chain : List ChainBlock),
            Leaves c s ((s.setStore t).answer p (if n = text.length then ⟨0x31, .done, none, [byteOf n]⟩
              else ⟨0x31, .refused, some .full, [byteOf n]⟩))
            ∧ t.textOf message.toNat = s.store.textOf message.toNat ++ text.take n
            ∧ (∀ n, n ≠ message.toNat → t.textOf n = s.store.textOf n)
            ∧ t.directory = s.store.directory.map (fun q => if q.number = message.toNat then { q with chain := chain } else q)
            ∧ chain.map (·.block) = r.chain.map (·.block) ∧ s.store.Rewritten t [b.block]
            ∧ t = { s.store with memory := t.memory, wrongBits := t.wrongBits, directory := t.directory })
      -- the last block is read before it is written
      ∧ (∀ (before : List ChainBlock) (b : ChainBlock), r.state = .opened → r.holder = some (.port p) → (∀ b ∈ text, SymbolPasses b) →
          s.store.Sound → s.ch0 = none → s.ch1 = none → r.chain = before ++ [b] → b.damaged = false → b.fill < 32 →
          (∀ e, s.store.wrongOf b.block = [e] → ∃ t : Store,
            exec c s = exec c (setFlag .storeCorrected (s.setStore t))
            ∧ (∀ a, Memory.read t.memory a = if e < 256 ∧ a = 32 * b.block + e / 8
                then Memory.read s.store.memory a ^^^ (1#8 <<< (e % 8)) else Memory.read s.store.memory a)
            ∧ t.wrongOf b.block = [] ∧ (∀ k, k ≠ b.block → t.wrongOf k = s.store.wrongOf k)
            ∧ t = { s.store with memory := t.memory, wrongBits := t.wrongBits, corrected := min 65535 (s.store.corrected + 1) })
          ∧ (∀ e f, s.store.wrongOf b.block = [e, f] → exec c s = exec c (post (.storeDamaged message.toNat before.length .append)
              (setFlag .storeUncorrectable (s.setStore { s.store with
                directory := s.store.directory.map (fun q => if q.number = message.toNat then { q with
                  damaged := true, chain := q.chain.modify before.length (fun k => { k with damaged := true }) } else q) })))))
      ∧ (r.state = .opened → r.holder = some (.port p) → (∀ b ∈ text, SymbolPasses b) → s.store.Sound → s.store.Clean r →
          s.ch0 = none → s.ch1 = none → 16 < s.store.free.length →
          ∃ (t : Store) (chain : List ChainBlock) (taken : Nat),
            Leaves c s ((s.setStore t).answer p ⟨0x31, .done, none, [byteOf text.length]⟩)
            ∧ t.textOf message.toNat = s.store.textOf message.toNat ++ text
            ∧ (∀ n, n ≠ message.toNat → t.textOf n = s.store.textOf n)
            ∧ t.directory = s.store.directory.map (fun q => if q.number = message.toNat then { q with chain := chain } else q)
            ∧ t.free = s.store.free.drop taken
            ∧ chain.map (·.block) = r.chain.map (·.block) ++ s.store.free.take taken
            ∧ s.store.Rewritten t (r.lastOpen ++ s.store.free.take taken)
            ∧ t = { s.store with memory := t.memory, wrongBits := t.wrongBits, free := t.free, directory := t.directory })

/-- READ TEXT returns the symbols from the first position up to the count, as the blocks hold them, with DAMAGED where one of them
comes from a DAMAGED block, and changes nothing where every other block reads clean; it refuses NO SUCH and RANGE (R82, R97). -/
def Obligations.TextIsReadBack : Prop :=
  ∀ (p : Port) (message first : Half) (count : Byte) (s : State),
    let c : Instr := .readText p message first count
    ((∀ r ∈ s.store.directory, r.number ≠ message.toNat) → exec c s = .next (s.answer p ⟨0x33, .refused, some .noSuch, []⟩))
    ∧ ∀ r, s.store.find message.toNat = some r →
      (count = 0 ∨ 32 < count.toNat ∨ (r.chain.map (·.fill)).sum < first.toNat →
        exec c s = .next (s.answer p ⟨0x33, .refused, some .range, []⟩))
      ∧ (1 ≤ count.toNat → count.toNat ≤ 32 → first.toNat ≤ (r.chain.map (·.fill)).sum → s.store.Clean r →
          (∀ b ∈ r.chain, b.fill ≤ 32) → (∀ y ∈ s.store.textOf message.toNat, Symbol.ofByte? y ≠ none) →
          let read := ((s.store.textOf message.toNat).drop first.toNat).take count.toNat
          let bad := ((r.chain.flatMap fun b => List.replicate b.fill b.damaged).drop first.toNat).take count.toNat
          exec c s = .next (s.answer p ⟨0x33, if true ∈ bad then .damaged else .done, none, byteOf read.length :: read⟩))

/-- CLOSE closes an OPEN message, empties its holder's slot and posts MESSAGE CLOSED; DELETE releases its blocks, IN USE to the tail of the
free queue and DAMAGED to the retired set, takes its record away and posts MESSAGE DELETED, and the drain's test clears the drain request
mark where no message is owed any longer; each refuses in its order (no channel at work) (R83, R85, R96, R103, R180). The layout of the
results is the model's choice, log entry 18. -/
def Obligations.MessagesCloseAndGo : Prop :=
  ∀ (p : Port) (message : Half) (s : State),
    ((∀ r ∈ s.store.directory, r.number ≠ message.toNat) →
      exec (.close p message) s = .next (s.answer p ⟨0x32, .refused, some .noSuch, []⟩)
      ∧ exec (.delete p message) s = .next (s.answer p ⟨0x36, .refused, some .noSuch, []⟩))
    ∧ ∀ r, s.store.find message.toNat = some r →
      (r.state ≠ .opened → exec (.close p message) s = .next (s.answer p ⟨0x32, .refused, some .state, []⟩))
      ∧ (r.state = .opened → (∃ q, q ≠ p ∧ r.holder = some (.port q)) →
          exec (.close p message) s = .next (s.answer p ⟨0x32, .refused, some .notHolder, []⟩))
      ∧ (∀ h, r.state = .opened → r.holder = some h → (∀ q, h = .port q → q = p) → s.ch0 = none → s.ch1 = none →
          Leaves (.close p message) s ((post (.messageClosed message.toNat .closed) (s.setStore { s.store.setSlot h none with
            directory := s.store.directory.map (fun q => if q.number = message.toNat then
              { q with state := .closed, closedAt := some s.store.clock, holder := none } else q) })).answer p
            ⟨0x32, .done, none, []⟩))
      ∧ (0 < r.readers ∨ r.delivery = .sending ∨ (r.state = .opened ∧ r.holder = some .line) →
          exec (.delete p message) s = .next (s.answer p ⟨0x36, .refused, some .busy, []⟩))
      ∧ (r.readers = 0 → r.delivery ≠ .sending → r.state = .opened → (∃ q, q ≠ p ∧ r.holder = some (.port q)) →
          exec (.delete p message) s = .next (s.answer p ⟨0x36, .refused, some .notHolder, []⟩))
      ∧ (r.readers = 0 → r.delivery ≠ .sending →
          (r.state = .opened → r.holder ≠ some .line ∧ ∀ q, r.holder = some (.port q) → q = p) →
          let whole := (r.chain.filter (fun b => b.damaged = false)).map (·.block)
          let rest := s.store.directory.filter (fun q => q.number ≠ message.toNat)
          ∃ retired : List Nat, (∀ b, b ∈ retired ↔ b ∈ s.store.retired ∨ ∃ k ∈ r.chain, k.damaged = true ∧ k.block = b)
            ∧ Leaves (.delete p message) s ((post (.messageDeleted message.toNat) { s with
              store := { (match r.holder with | some h => s.store.setSlot h none | none => s.store) with
                free := s.store.free ++ whole, retired := retired, directory := rest }
              calls := { s.calls with drainReq := s.calls.drainReq
                && !(s.calls.state == .idle && rest.all fun q => !q.printOwed || q.state == .opened) } }).answer p
              ⟨0x36, .done, none, [byteOf (whole.length / 256), byteOf whole.length,
                byteOf ((r.chain.length - whole.length) / 256), byteOf (r.chain.length - whole.length)]⟩))

/-- READ RECORD answers one record by its index or by its number, or the summary, whose two counts its clear option sets to 0, in the
layouts of R193; SET DELIVERY stores the items present, refusing NO SUCH, STATE, BUSY and RANGE in that order, and leaves the others (R5,
R73, R85, R98, R99, R191 to R193). How an absent field of several bytes reads is the model's choice, log entry 17; so are the layout of SET
DELIVERY's result, log entry 18, that presence bits from 3 on, which mark no item, are ignored, log entry 31, that a run beyond its range is
refused RANGE, log entry 32, and that the clear option is checked for every selector, log entry 36. -/
def Obligations.RecordsAreReadAndSet : Prop :=
  let two (n : Nat) : List Byte := [byteOf (n / 256), byteOf n]
  let four (w : Word) : List Byte := [w.extractLsb' 24 8, w.extractLsb' 16 8, w.extractLsb' 8 8, w.extractLsb' 0 8]
  let bit (n : Nat) (b : Bool) : Nat := if b then 2 ^ n else 0
  let run (bytes : List Byte) : List Byte := byteOf bytes.length :: bytes
  let received (r : Record) : Bool := r.kind == .received
  let deliveryByte (r : Record) : Byte := match r.delivery with
    | .none => 0 | .ready => 1 | .sending => 2 | .sent => 3 | .failed => 4 | .held => 5 | .collected => 6
  let record (r : Record) (index : Nat) : List Byte :=
    ([byteOf (bit 0 r.closedAt.isSome + bit 1 r.holder.isSome + bit 2 (received r) + bit 3 (!received r) + bit 4 (r.remote != [])
      + bit 5 (r.expected != []) + bit 6 (r.destination != []))] : List Byte)
    ++ two r.number
    ++ [if received r then (0 : Byte) else 1, match r.state with | .opened => 0 | .closed => 1 | .incomplete => 2,
      match r.holder with | some .line => 0 | some .keyboard => 1 | some (.port .s) => 2 | some (.port .x) => 3 | none => 0xFF]
    ++ two (r.chain.map (·.fill)).sum
    ++ [byteOf (bit 0 r.damaged + bit 1 r.truncated + bit 2 r.printOwed + bit 3 r.punchOwed)]
    ++ four r.openedAt ++ (match r.closedAt with | some w => four w | none => [0, 0, 0, 0])
    ++ (if received r then byteOf r.worstP :: (two r.overCount ++ two r.mutilatedCount) else [0xFF, 0, 0, 0, 0])
    ++ (if received r then [0xFF, 0xFF] else [deliveryByte r, byteOf r.attempts])
    ++ [byteOf r.readers, byteOf index] ++ two r.chain.length ++ two (r.chain.countP (·.damaged))
    ++ run (r.remote.map Symbol.toByte) ++ run (r.expected.map PatPos.toByte) ++ run (r.destination.map byteOf)
  let summary (t : Store) : List Byte :=
    [byteOf t.directory.length, byteOf (48 - t.directory.length)] ++ two t.free.length ++ two t.retired.length
    ++ two (t.directory.map fun r => r.chain.countP (·.damaged)).sum ++ two t.corrected ++ two t.unstored ++ two t.counter
    ++ two t.scrubPos ++ four t.clock
  (∀ (p : Port) (value : Half) (clear : Byte) (s : State), clear.toNat ≤ 1 →
    (∀ r, s.store.directory[value.toNat]? = some r →
      exec (.readRecord p 0 value clear) s = .next (s.answer p ⟨0x34, .done, none, record r value.toNat⟩))
    ∧ (s.store.directory.length ≤ value.toNat →
        exec (.readRecord p 0 value clear) s = .next (s.answer p ⟨0x34, .refused, some .noSuch, []⟩))
    ∧ (∀ (k : Nat) (r : Record), (s.store.directory.map (·.number)).Nodup → s.store.directory[k]? = some r → r.number = value.toNat →
      exec (.readRecord p 1 value clear) s = .next (s.answer p ⟨0x34, .done, none, record r k⟩))
    ∧ ((∀ r ∈ s.store.directory, r.number ≠ value.toNat) →
        exec (.readRecord p 1 value clear) s = .next (s.answer p ⟨0x34, .refused, some .noSuch, []⟩))
    ∧ exec (.readRecord p 2 value clear) s = .next ((if clear = 1 then
        s.setStore { s.store with corrected := 0, unstored := 0 } else s).answer p ⟨0x34, .done, none, summary s.store⟩)
    ∧ (∀ selector : Byte, 2 < selector.toNat →
        exec (.readRecord p selector value clear) s = .next (s.answer p ⟨0x34, .refused, some .range, []⟩)))
  ∧ (∀ (p : Port) (selector : Byte) (value : Half) (clear : Byte) (s : State), 1 < clear.toNat →
      exec (.readRecord p selector value clear) s = .next (s.answer p ⟨0x34, .refused, some .range, []⟩))
  ∧ ∀ (p : Port) (message : Half) (presence option : Byte) (identity destination : List Byte) (s : State),
    let c : Instr := .setDelivery p message presence option identity destination
    let refused (why : Reason) := exec c s = .next (s.answer p ⟨0x35, .refused, some why, []⟩)
    let bad := (presence.getLsbD 0 = true ∧ (20 < identity.length ∨ ∃ b ∈ identity, b ≠ 0x7F ∧ ∀ y : Symbol, y.wellFormed = true →
        y.kind ≠ .explicitShift → y.kind ≠ .blank → y.toByte ≠ b))
      ∨ (presence.getLsbD 1 = true ∧ (16 < destination.length ∨ ∃ d ∈ destination, 9 < d.toNat))
      ∨ (presence.getLsbD 2 = true ∧ 2 < option.toNat)
    ((∀ r ∈ s.store.directory, r.number ≠ message.toNat) → refused .noSuch)
    ∧ ∀ r, s.store.find message.toNat = some r →
      (r.kind = .received → refused .state)
      ∧ (r.kind = .prepared → r.delivery = .sending → refused .busy)
      ∧ (r.kind = .prepared → r.delivery ≠ .sending → bad → refused .range)
      ∧ (r.kind = .prepared → r.delivery ≠ .sending → ¬ bad →
          ∃ (pattern : List PatPos) (r' : Record), (presence.getLsbD 0 = true → pattern.map PatPos.toByte = identity)
            ∧ r' = { r with
              expected := if presence.getLsbD 0 then pattern else r.expected
              destination := if presence.getLsbD 1 then destination.map (·.toNat) else r.destination
              delivery := if presence.getLsbD 2 then
                (if option = 0 then .none else if option = 1 then .ready else .held) else r.delivery
              attempts := if presence.getLsbD 2 then 0 else r.attempts }
            ∧ exec c s = .next ((s.setStore { s.store with
              directory := s.store.directory.map (fun q => if q.number = message.toNat then r' else q) }).answer p
              ⟨0x35, .done, none, run (r'.expected.map PatPos.toByte) ++ run (r'.destination.map byteOf) ++ [deliveryByte r']⟩))

/-- CLEAR OWED clears the owed marks it names, refusing NO SUCH and RANGE; PRINT OWED answers how many messages that are not OPEN carry
PRINT OWED and sets the drain request mark where there is one; DRAIN_START starts CH1, printing, on the first of them where the drain is
wanted, the call state, the printer and CH1 are IDLE. At CH1's DONE the message loses PRINT OWED, with OWED PRINTED, and at its stop it
keeps the mark; either ends the drain, and its test clears the drain request mark where no message is owed any longer; a hold keeps the
drain (no automatic send and no collection at work) (R101, R109, R112, R115, R120, R122, R180). The layout of the results is the model's
choice, log entry 18, and so are that a channel's record is read for an answer before the sequencer hears of it, log entry 26, that
DRAIN_START changes nothing where its conditions do not hold, log entry 3, and, its reading of "at once" in R180, that PRINT OWED starts
no drain itself: the drain begins at the row DRAIN_START, log entry 4. -/
def Obligations.OwedMarksAreServed : Prop :=
  (∀ (p : Port) (message : Half) (flags : Byte) (s : State), (∀ r ∈ s.store.directory, r.number ≠ message.toNat) →
    exec (.clearOwed p message flags) s = .next (s.answer p ⟨0x37, .refused, some .noSuch, []⟩))
  ∧
  (∀ (p : Port) (message : Half) (flags : Byte) (s : State) (r : Record), s.store.find message.toNat = some r →
    (flags ≠ 4 ∧ flags ≠ 8 ∧ flags ≠ 12 →
      exec (.clearOwed p message flags) s = .next (s.answer p ⟨0x37, .refused, some .range, []⟩))
    ∧ (flags = 4 ∨ flags = 8 ∨ flags = 12 → (s.store.directory.map (·.number)).Nodup →
        let print := r.printOwed && flags == 8
        let punch := r.punchOwed && flags == 4
        let d := s.store.directory.map (fun q => if q.number = message.toNat then
          { q with printOwed := print, punchOwed := punch } else q)
        exec (.clearOwed p message flags) s = .next (({ s with
          store := { s.store with directory := d }
          calls := { s.calls with drainReq := s.calls.drainReq
            && !(s.calls.state == .idle && d.all fun q => !q.printOwed || q.state == .opened) } } : State).answer p ⟨0x37, .done, none,
          [boolOf r.damaged + 2 * boolOf r.truncated + 4 * boolOf print + 8 * boolOf punch]⟩)))
  ∧ (∀ (p : Port) (s : State), ∃ n, n = s.store.directory.countP (fun r => r.printOwed && r.state != .opened)
      ∧ exec (.printOwed p) s = .next (({ s with calls := { s.calls with drainReq := s.calls.drainReq || 0 < n } } : State).answer p
          ⟨0x52, .done, none, [byteOf n]⟩))
  ∧ (∀ (s : State) (before after : List Record) (r : Record) (b : ChainBlock) (bs : List ChainBlock),
      s.store.directory = before ++ r :: after → (∀ q ∈ before, q.printOwed = false ∨ q.state = .opened) →
      r.printOwed = true → r.state ≠ .opened → (s.store.directory.map (·.number)).Nodup →
      (s.calls.autoDrain = true ∨ s.calls.drainReq = true) → s.calls.state = .idle → s.calls.drain = none →
      s.printer.engine = .idle → s.ch1 = none → r.chain = b :: bs → 1 ≤ b.fill → b.damaged = false →
      s.store.wrongOf b.block = [] →
      Leaves .drainStart s { s with
        calls := { s.calls with drain := some r.number }
        store := { s.store with directory := before ++ { r with readers := r.readers + 1 } :: after }
        ch1 := some ⟨.running, r.number, 0, ⟨false, true, false, false⟩, .now, true, .sequencer,
          some ⟨0, (s.store.blockBytes b.block).map Symbol.ofByte, true⟩⟩ })
  ∧ (∀ (s : State) (r : Record), r ∈ s.store.directory → r.printOwed = true → r.state ≠ .opened →
      ((s.calls.autoDrain = false ∧ s.calls.drainReq = false) ∨ s.calls.state ≠ .idle ∨ s.calls.drain ≠ none
        ∨ s.printer.engine ≠ .idle ∨ s.ch1 ≠ none) → exec .drainStart s = .next s)
  -- what CH1 reports
  ∧ ∀ (s : State) (w : ChanWork), s.ch1 = some w → w.starter = .sequencer → s.calls.auto = none → s.calls.coll = none →
    s.calls.drain = some w.message →
    let changed (f : Record → Record) := s.store.directory.map fun q => if q.number = w.message then f q else q
    let out : State := { s with line := s.line.leave (.chan .ch1), ch1 := none }
    let rest (d : List Record) : Calls := { s.calls with
      drain := none
      drainReq := s.calls.drainReq && !(s.calls.state == .idle && d.all fun q => !q.printOwed || q.state == .opened) }
    (∀ (r : Record) (before : List ChainBlock) (b : ChainBlock) (off : Nat) (copied : List Symbol) (y : Symbol),
      w.phase = .running → w.sinks = ⟨false, true, false, false⟩ → s.store.find w.message = some r → r.state ≠ .opened →
      r.chain = before ++ [b] → w.position = (before.map (·.fill)).sum + off → off + 1 = b.fill →
      w.copy = some ⟨before.length, copied, true⟩ → copied[off]? = some y → s.printer.offer = .takes →
      let d := changed fun q => { q with readers := q.readers - 1, printOwed := false }
      Leaves (.channelDelivery .ch1) s (post (.owedPrinted w.message) (post (.channelDone .ch1 w.message) { out with
        printer := s.printer.accept y, store := { s.store with directory := d }, calls := rest d })))
    ∧ ∀ p : Port,
      (let d := changed fun q => { q with readers := q.readers - 1 }
        ∃ u : State, u = post (.channelStopped .ch1 w.message w.position) { out with store := { s.store with directory := d } }
          ∧ Leaves (.stopChannel p 1) s (({ u with calls := rest d } : State).answer p ⟨0x43, .done, none, chanBytes .ch1 u⟩))
      ∧ ((∀ why, w.phase ≠ .held why) → ∃ u : State,
          u = post (.channelHeld .ch1 w.message w.position .command) { out with ch1 := some { w with phase := .held .command } }
          ∧ Leaves (.hold p 1) s (u.answer p ⟨0x41, .done, none, chanBytes .ch1 u⟩))

/-- SCRUB reads the next block IN USE above its position, or from 0: one that agrees with its code stays, one with one wrong bit is
written back with that bit turned and counted, one with two is DAMAGED, with its event and flags; with none IN USE nothing happens. SET
CLOCK sets the seconds clock and a second counts it up, from 4294967295 to 0 (R81, R104, R105; which bits are wrong is the model's record
of log entry 8). -/
def Obligations.TheScrubberAndTheClockRun : Prop :=
  (∀ (p : Port) (w : Word) (s : State),
    exec (.setClock p w) s = .next ((s.setStore { s.store with clock := w }).answer p ⟨0x06, .done, none, wordBytes w⟩)
    ∧ (∃ t, exec .secondsTick s = .next t ∧ t = s.setStore { s.store with clock := t.store.clock }
      ∧ t.store.clock.toNat = (s.store.clock.toNat + 1) % 4294967296))
  ∧ (∀ s : State, (∀ b r idx, ¬ s.store.Holds b r idx) → exec .scrub s = .next s)
  ∧ ∀ (s : State) (b idx : Nat) (r : Record), s.store.Sound → s.ch0 = none → s.ch1 = none → s.store.Holds b r idx →
    ((s.store.scrubPos < b ∧ ∀ c q j, s.store.Holds c q j → s.store.scrubPos < c → b ≤ c)
      ∨ ((∀ c q j, s.store.Holds c q j → c ≤ s.store.scrubPos) ∧ ∀ c q j, s.store.Holds c q j → b ≤ c)) →
    (s.store.wrongOf b = [] → exec .scrub s = .next (s.setStore { s.store with scrubPos := b }))
    ∧ (∀ e, s.store.wrongOf b = [e] → ∃ t : Store,
        exec .scrub s = .next (setFlag .storeCorrected (s.setStore t))
        ∧ (∀ a, Memory.read t.memory a =
            if e < 256 ∧ a = 32 * b + e / 8 then Memory.read s.store.memory a ^^^ (1#8 <<< (e % 8)) else Memory.read s.store.memory a)
        ∧ t.wrongOf b = [] ∧ (∀ c, c ≠ b → t.wrongOf c = s.store.wrongOf c)
        ∧ t = { s.store with memory := t.memory, wrongBits := t.wrongBits, scrubPos := b
                             corrected := min 65535 (s.store.corrected + 1) })
    ∧ (∀ e f, s.store.wrongOf b = [e, f] →
        exec .scrub s = .next (post (.storeDamaged r.number idx .scrubber) (setFlag .storeUncorrectable (s.setStore { s.store with
          scrubPos := b
          directory := s.store.directory.map (fun q => if q.number = r.number then { q with
            damaged := true, chain := q.chain.modify idx (fun k => { k with damaged := true }) } else q) }))))

/-! ## The transfer channels (chapter 6) -/

/-- START CHANNEL refuses RANGE, BUSY, NO SUCH and RANGE in that order; with SEND KEY or CALL OUT the channel is PENDING; with NOW it
runs, its copy of the block at its position made and its request to the arbiter joined where it transmits; a transmitting channel that
meets a DAMAGED block aborts (R38, R39, R108, R109, R111, R112, R117). That the record of the answer is read before the transmitter
looks for a character is the model's choice, log entry 26, and so is how its marks read, log entry 50. -/
def Obligations.ChannelsStart : Prop :=
  ∀ (p : Port) (channel : Byte) (message position : Half) (sinks trigger : Byte) (s : State),
    let c : Instr := .startChannel p channel message position sinks trigger
    (1 < channel.toNat → exec c s = .next (s.answer p ⟨0x40, .refused, some .range, []⟩))
    ∧ ∀ ch : Chan, channel = (if ch = .ch0 then 0 else 1) →
      (s.chan ch ≠ none → exec c s = .next (s.answer p ⟨0x40, .refused, some .busy, []⟩))
      ∧ (s.chan ch = none → (∀ r ∈ s.store.directory, r.number ≠ message.toNat) →
          exec c s = .next (s.answer p ⟨0x40, .refused, some .noSuch, []⟩))
      ∧ ∀ r, s.chan ch = none → s.store.find message.toNat = some r →
        ((r.chain.map (·.fill)).sum < position.toNat ∨ sinks = 0 ∨ 7 < sinks.toNat ∨ 2 < trigger.toNat →
          exec c s = .next (s.answer p ⟨0x40, .refused, some .range, []⟩))
        ∧ (position.toNat ≤ (r.chain.map (·.fill)).sum → 1 ≤ sinks.toNat → sinks.toNat ≤ 7 →
          let k : SinkSet := ⟨sinks.getLsbD 0, sinks.getLsbD 1, sinks.getLsbD 2, false⟩
          let read : State := s.setStore { s.store with directory := s.store.directory.map (fun q =>
            if q.number = message.toNat then { q with readers := q.readers + 1 } else q) }
          (∀ t : ChTrigger, (t = .sendKey ∧ trigger = 1 ∨ t = .callOut ∧ trigger = 2) → ∃ u : State,
            u = read.setChan ch (some ⟨.pending, message.toNat, position.toNat, k, t, false, .port p, none⟩)
              ∧ Brings c s (u.answer p ⟨0x40, .started, none, chanBytes ch u⟩))
          ∧ (∀ (before : List ChainBlock) (b : ChainBlock) (after : List ChainBlock), trigger = 0 →
              r.chain = before ++ b :: after → (before.map (·.fill)).sum ≤ position.toNat →
              position.toNat < (before.map (·.fill)).sum + b.fill →
              (b.damaged = false → s.store.wrongOf b.block = [] →
                (k.printer = true → s.printer.engine ≠ .fault) → (k.punch = true → s.punch.engine ≠ .off) → ∃ u : State,
                  u = (if k.transmitter then (read.setLine (s.line.asked (.chan ch))) else read).setChan ch
                    (some ⟨.running, message.toNat, position.toNat, k, .now, true, .port p,
                      some ⟨before.length, (s.store.blockBytes b.block).map Symbol.ofByte, true⟩⟩)
                  ∧ Brings c s (u.answer p ⟨0x40, .started, none, chanBytes ch u⟩))
              ∧ (b.damaged = true → k.transmitter = true → s.line.holder ≠ some (.chan ch) → .chan ch ∉ s.line.requests →
                  ∃ u : State, u = post (.channelAborted ch message.toNat position.toNat) (s.setStore { s.store with
                      directory := s.store.directory.map (fun q => if q.number = message.toNat then
                        { q with delivery := if q.delivery = .sending then .failed else q.delivery } else q) })
                    ∧ Brings c s (u.answer p ⟨0x40, .started, none, chanBytes ch u⟩))))

/-- HOLD holds a channel that is PENDING, RUNNING or WAITING, takes it out of the arbiter and posts CHANNEL HELD; RESUME makes one held
before its trigger PENDING again; one held after it runs on, its copy kept or the block at its position read (undamaged), its request to the
arbiter joined where it transmits, or it is held again where a sink refuses permanently; at the end of its message it is IDLE with CHANNEL
DONE, or WAITING while the message is OPEN; STOP makes it IDLE, gives its message one reader fewer and posts CHANNEL STOPPED; READ changes
nothing (channels started from a port) (R38, R39, R108, R111, R112, R115, R119 to R122, R124). That the record of an answer is read before
the transmitter looks for a character is the model's choice, log entry 26; how its marks read, log entry 50; how its absent
fields read, the chain index of two bytes among them, log entry 17; that a channel WAITING at the end of a full block has no copy follows
R112's text, log entry 46. -/
def Obligations.ChannelsAreCommanded : Prop :=
  -- the channel record
  (∀ (ch : Chan) (s : State),
    let two (n : Nat) : List Byte := [byteOf (n / 256), byteOf n]
    let bit (n : Nat) (b : Bool) : Nat := if b then 2 ^ n else 0
    let grant : Byte := if s.line.holder = some (.chan ch) then 1 else if .chan ch ∈ s.line.requests then 2 else 0
    (s.chan ch = none → chanBytes ch s =
      [0, 0, 0, 0, 0, 0, 0xFF, 0xFF, 0xFF, 0xFF, 0xFF, 0, 0, 0xFF, grant, 0, 0])
    ∧ ∀ w, s.chan ch = some w →
      let why : Option HoldReason := match w.phase with | .held r => some r | _ => none
      chanBytes ch s = [byteOf (1 + bit 1 why.isSome + bit 2 w.copy.isSome),
          match w.phase with | .pending => 1 | .running => 2 | .waiting => 3 | .held _ => 4]
        ++ two w.message ++ two w.position
        ++ [byteOf (bit 0 w.sinks.transmitter + bit 1 w.sinks.printer + bit 2 w.sinks.punch + bit 3 w.sinks.store),
          match w.trigger with | .now => 0 | .sendKey => 1 | .callOut => 2,
          if w.occurred then 1 else 0,
          match w.starter with | .port .s => 0 | .port .x => 1 | .sequencer => 2,
          match why with | some .lineBreak => 0 | some .key => 1 | some .callEnd => 2 | some .command => 3 | some .sink => 4 | none => 0xFF]
        ++ (match w.copy with | some k => two k.index ++ [if k.valid then 1 else 0] | none => [0, 0, 0xFF])
        ++ [grant] ++ two (match s.store.find w.message with | some r => (r.chain.map (·.fill)).sum | none => 0)) ∧
  ∀ (p : Port) (channel : Byte) (s : State),
    (1 < channel.toNat → exec (.hold p channel) s = .next (s.answer p ⟨0x41, .refused, some .range, []⟩)
      ∧ exec (.resume p channel) s = .next (s.answer p ⟨0x42, .refused, some .range, []⟩)
      ∧ exec (.stopChannel p channel) s = .next (s.answer p ⟨0x43, .refused, some .range, []⟩)
      ∧ exec (.readChannel p channel) s = .next (s.answer p ⟨0x44, .refused, some .range, []⟩))
    ∧ ∀ ch : Chan, channel = (if ch = .ch0 then 0 else 1) →
      let out : State := s.setLine (s.line.leave (.chan ch))
      exec (.readChannel p channel) s = .next (s.answer p ⟨0x44, .done, none, chanBytes ch s⟩)
      ∧ (s.chan ch = none → exec (.hold p channel) s = .next (s.answer p ⟨0x41, .refused, some .state, []⟩)
        ∧ exec (.resume p channel) s = .next (s.answer p ⟨0x42, .refused, some .state, []⟩)
        ∧ Leaves (.stopChannel p channel) s (s.answer p ⟨0x43, .done, none, chanBytes ch s⟩))
      ∧ ∀ w, s.chan ch = some w → (∃ q, w.starter = .port q) →
        ((∀ why, w.phase ≠ .held why) → ∃ u : State,
            u = post (.channelHeld ch w.message w.position .command) (out.setChan ch (some { w with phase := .held .command }))
            ∧ Leaves (.hold p channel) s (u.answer p ⟨0x41, .done, none, chanBytes ch u⟩)
            ∧ exec (.resume p channel) s = .next (s.answer p ⟨0x42, .refused, some .state, []⟩))
        ∧ ((∃ why, w.phase = .held why) → Leaves (.hold p channel) s (s.answer p ⟨0x41, .done, none, chanBytes ch s⟩)
            ∧ (w.occurred = false → ∃ u : State, u = s.setChan ch (some { w with phase := .pending })
              ∧ Leaves (.resume p channel) s (u.answer p ⟨0x42, .done, none, chanBytes ch u⟩))
            ∧ ∀ r, w.occurred = true → s.store.find w.message = some r →
              (∀ (before : List ChainBlock) (b : ChainBlock) (after : List ChainBlock) (copy : Option Copy),
                r.chain = before ++ b :: after → (before.map (·.fill)).sum ≤ w.position →
                w.position < (before.map (·.fill)).sum + b.fill →
                ((∃ held, w.copy = some ⟨before.length, held, true⟩ ∧ copy = w.copy)
                  ∨ (∀ held, w.copy ≠ some ⟨before.length, held, true⟩) ∧ b.damaged = false ∧ s.store.wrongOf b.block = []
                    ∧ copy = some ⟨before.length, (s.store.blockBytes b.block).map Symbol.ofByte, true⟩) →
                let refused := w.sinks.printer = true ∧ s.printer.engine = .fault ∨ w.sinks.punch = true ∧ s.punch.engine = .off
                (¬ refused → ∃ u : State,
                  u = (if w.sinks.transmitter then s.setLine (s.line.asked (.chan ch)) else s).setChan ch
                    (some { w with phase := .running, copy := copy })
                  ∧ Brings (.resume p channel) s (u.answer p ⟨0x42, .done, none, chanBytes ch u⟩))
                ∧ (refused → ∃ u : State,
                  u = post (.channelHeld ch w.message w.position .sink) ((s.setLine
                      ((if w.sinks.transmitter then s.line.asked (.chan ch) else s.line).leave (.chan ch))).setChan ch
                    (some { w with phase := .held .sink, copy := copy }))
                  ∧ Brings (.resume p channel) s (u.answer p ⟨0x42, .done, none, chanBytes ch u⟩)))
              ∧ (w.position = (r.chain.map (·.fill)).sum → r.state ≠ .opened → ∃ u : State,
                  u = post (.channelDone ch w.message) ((out.setChan ch none).setStore { s.store with
                    directory := s.store.directory.map (fun q => if q.number = w.message then
                      { q with readers := q.readers - 1 } else q) })
                  ∧ Brings (.resume p channel) s (u.answer p ⟨0x42, .done, none, chanBytes ch u⟩))
              ∧ (w.position = (r.chain.map (·.fill)).sum → r.state = .opened → ∃ u : State,
                  u = (s.setLine (s.line.withdraw (.chan ch))).setChan ch (some { w with
                    phase := .waiting
                    copy := match r.chain.getLast? with
                      | none => none
                      | some b => if 32 ≤ b.fill then none else w.copy })
                  ∧ Brings (.resume p channel) s (u.answer p ⟨0x42, .done, none, chanBytes ch u⟩)))
        ∧ ∃ u : State, u = post (.channelStopped ch w.message w.position) ((out.setChan ch none).setStore { s.store with
              directory := s.store.directory.map (fun q => if q.number = w.message then
                { q with readers := q.readers - 1 } else q) })
            ∧ Leaves (.stopChannel p channel) s (u.answer p ⟨0x43, .done, none, chanBytes ch u⟩)

/-- A RUNNING channel whose set is PRINTER, PUNCH or both gives the symbol at its position, from its copy, when every sink of the set can
take it, and its position rises by 1; where the next symbol lies in the next block that block is read, undamaged, or, DAMAGED, as mutilated
symbols of code 0 and class L; after the last symbol of a closed message it is IDLE with CHANNEL DONE, and after the last of an
OPEN one WAITING, and then without a copy where its last block is full (R35, R68, R112, R114 to R116; that R112's text is followed
there, and not its worked example, is log entry 46). A channel that holds the grant gives its symbol at the end of a character, or first
the shift its class needs, and its position rises likewise; it reads the next block, or is aborted where that is DAMAGED, and after its last
symbol it is IDLE with CHANNEL DONE, its grant passed on, or WAITING with its grant kept (R38 to R41, R82, R117, R118; a channel that a port
started). -/
def Obligations.ChannelsDeliver : Prop :=
  (∀ (ch : Chan) (s : State) (w : ChanWork) (r : Record) (before : List ChainBlock) (b : ChainBlock) (after : List ChainBlock)
      (off : Nat) (copied : List Symbol) (y : Symbol),
    s.chan ch = some w → w.phase = .running → w.sinks.transmitter = false → (∃ q, w.starter = .port q) →
    s.store.find w.message = some r → r.chain = before ++ b :: after → w.position = (before.map (·.fill)).sum + off →
    off < b.fill → w.copy = some ⟨before.length, copied, true⟩ → copied[off]? = some y →
    (w.sinks.printer = true → s.printer.offer = .takes) → (w.sinks.punch = true → s.punch.offer = .takes) →
    ∃ given : State, given = { s with
        printer := if w.sinks.printer then s.printer.accept y else s.printer
        punch := if w.sinks.punch then s.punch.accept y else s.punch }
      ∧ (off + 1 < b.fill →
          Leaves (.channelDelivery ch) s (given.setChan ch (some { w with position := w.position + 1 })))
      ∧ (∀ k ks, off + 1 = b.fill → after = k :: ks → 1 ≤ k.fill → k.damaged = true ∨ s.store.wrongOf k.block = [] →
          Leaves (.channelDelivery ch) s (given.setChan ch (some { w with
            position := w.position + 1
            copy := some ⟨before.length + 1, if k.damaged then List.replicate k.fill ⟨0, .letters, true⟩
              else (s.store.blockBytes k.block).map Symbol.ofByte, true⟩ })))
      ∧ (off + 1 = b.fill → (∀ k ∈ after, k.fill = 0) → r.state = .opened →
          Leaves (.channelDelivery ch) s ((given.setLine (s.line.withdraw (.chan ch))).setChan ch
            (some { w with
              position := w.position + 1, phase := .waiting, copy := if after = [] ∧ 32 ≤ b.fill then none else w.copy })))
      ∧ (off + 1 = b.fill → (∀ k ∈ after, k.fill = 0) → r.state ≠ .opened →
          Leaves (.channelDelivery ch) s (post (.channelDone ch w.message) (((given.setLine (s.line.leave (.chan ch))).setChan ch
            none).setStore { s.store with directory := s.store.directory.map (fun q => if q.number = w.message then
              { q with readers := q.readers - 1 } else q) }))))
  ∧ ∀ (ch : Chan) (s : State) (w : ChanWork) (r : Record) (before : List ChainBlock) (b : ChainBlock) (after : List ChainBlock)
      (off : Nat) (copied : List Symbol) (y : Symbol) (k : TxChar),
    s.line.txChar = some k → s.kb.typeahead = [] → .keyboard ∉ s.line.requests → s.line.holder = some (.chan ch) →
    s.line.abState = .none → s.line.txEnable = true → s.line.pendingRate = none →
    s.dist.rowSent = ⟨false, false, false, false⟩ → s.store.slotLine = none → s.calls.state = .idle →
    s.chan ch = some w → w.phase = .running → w.sinks = ⟨true, false, false, false⟩ → s.store.find w.message = some r →
    r.chain = before ++ b :: after → w.position = (before.map (·.fill)).sum + off → off < b.fill →
    w.copy = some ⟨before.length, copied, true⟩ → copied[off]? = some y →
    let code := (emission s.line.txCase y).2
    ((emission s.line.txCase y).1 = true → exec .characterEnd s = .next (s.setLine { s.line with
        txChar := some ⟨code, s.line.stopLen, true⟩, txCase := if code = 31 then .letters else .figures }))
    ∧ ((emission s.line.txCase y).1 = false → off + 1 < b.fill → exec .characterEnd s = .next ((s.setLine { s.line with
        txChar := some ⟨code, s.line.stopLen, false⟩, txCase := caseAfter s.line.txUsos s.line.txCase code }).setChan ch
          (some { w with position := w.position + 1 })))
    ∧ ((emission s.line.txCase y).1 = false → off + 1 = b.fill → (∃ q, w.starter = .port q) →
      let line : LineUnit := { s.line with
        txChar := some ⟨code, s.line.stopLen, false⟩, txCase := caseAfter s.line.txUsos s.line.txCase code }
      let gone (f : Record → Record) : State := ((s.setLine (line.leave (.chan ch))).setChan ch none).setStore { s.store with
        directory := s.store.directory.map fun q => if q.number = w.message then f { q with readers := q.readers - 1 } else q }
      (∀ k ks, after = k :: ks → 1 ≤ k.fill → k.damaged = false → s.store.wrongOf k.block = [] →
        exec .characterEnd s = .next ((s.setLine line).setChan ch (some { w with
          position := w.position + 1
          copy := some ⟨before.length + 1, (s.store.blockBytes k.block).map Symbol.ofByte, true⟩ })))
      ∧ (∀ k ks, after = k :: ks → 1 ≤ k.fill → k.damaged = true →
        exec .characterEnd s = .next (post (.channelAborted ch w.message (w.position + 1))
          (gone fun q => { q with delivery := if q.delivery = .sending then .failed else q.delivery })))
      ∧ ((∀ k ∈ after, k.fill = 0) → r.state = .opened →
        exec .characterEnd s = .next ((s.setLine (line.withdraw (.chan ch))).setChan ch (some { w with
          position := w.position + 1, phase := .waiting, copy := if after = [] ∧ 32 ≤ b.fill then none else w.copy })))
      ∧ ((∀ k ∈ after, k.fill = 0) → r.state ≠ .opened →
        exec .characterEnd s = .next (post (.channelDone ch w.message) (gone id))))

/-! ## The Page Printer (chapter 7) -/

/-- SET FORMAT forms a record from the waiting one, or else the active one, with each present field clamped and the margin at most the
line length less 20; it loads at once with the engine IDLE, the queue empty, no follow-on owed and the column at the margin, and waits
otherwise for a carriage return, which fixes its target at home (R128, R129, R131; before home, where a return runs). The layout of the
results and how a yes or set mark reads are the model's choice, log entries 18 and 50, and so is that presence bits 5 to 7, which name no
field, are ignored, log entry 31. -/
def Obligations.FormatsAreLoaded : Prop :=
  -- the result
  (∀ r : Printer,
    let record (f : Format) : List Byte := [byteOf f.lineLength, byteOf f.margin, byteOf f.spacing,
      match f.mode with | .hold => 0 | .wrap => 1, if f.crAddsLf then 1 else 0]
    r.formatBytes = record r.active ++ record r.pending ++ [if r.waiting then 1 else 0,
      match r.engine with | .idle => 0 | .busy => 1 | .stopped => 2 | .fault => 3, byteOf r.queue.length, byteOf r.column,
      if r.paperOut then 1 else 0, match r.followOn with | .none => 0 | .lf => 1 | .crLf => 2]) ∧
  (∀ (p : Port) (presence len margin spacing mode cr : Byte) (s : State),
    let c : Instr := .setFormat p presence len margin spacing mode cr
    let r := s.printer
    let bad := (presence.getLsbD 3 = true ∧ 1 < mode.toNat) ∨ (presence.getLsbD 4 = true ∧ 1 < cr.toNat)
    let any := presence.getLsbD 0 = true ∨ presence.getLsbD 1 = true ∨ presence.getLsbD 2 = true ∨ presence.getLsbD 3 = true
      ∨ presence.getLsbD 4 = true
    let base := if r.waiting then r.pending else r.active
    let length := if presence.getLsbD 0 then max 20 (min 132 len.toNat) else base.lineLength
    let f : Format := {
      lineLength := length
      margin := min (if presence.getLsbD 1 then min 30 margin.toNat else base.margin) (length - 20)
      spacing := if presence.getLsbD 2 then max 1 (min 2 spacing.toNat) else base.spacing
      mode := if presence.getLsbD 3 then (if mode = 0 then .hold else .wrap) else base.mode
      crAddsLf := if presence.getLsbD 4 then cr == 1 else base.crAddsLf }
    let atOnce := r.engine = .idle ∧ r.queue = [] ∧ r.followOn = .none ∧ r.column = r.active.margin
    (bad → exec c s = .next (s.answer p ⟨0x50, .refused, some .range, []⟩))
    ∧ (¬ bad → ¬ any → exec c s = .next (s.answer p ⟨0x50, .done, none, r.formatBytes⟩))
    ∧ (¬ bad → any → atOnce → ∃ r' : Printer, r' = { r with
          active := f, pending := f, waiting := false, column := f.margin
          engine := if f.margin = r.active.margin then .idle else .busy
          op := if f.margin = r.active.margin then r.op else
            some (.marginMove ((f.margin - r.active.margin) + (r.active.margin - f.margin))) }
        ∧ exec c s = .next ((post .formatLoaded (s.setPrinter r')).answer p ⟨0x50, .done, none, r'.formatBytes⟩))
    ∧ (¬ bad → any → ¬ atOnce → (∀ cause start t, r.op ≠ some (.carriageReturn cause start (some t))) →
        ∃ r' : Printer, r' = { r with pending := f, waiting := true }
        ∧ exec c s = .next ((s.setPrinter r').answer p ⟨0x50, .done, none, r'.formatBytes⟩)))
  ∧ ∀ (s : State) (cause : CrCause) (start : Option Nat), s.printer.op = some (.carriageReturn cause start none) →
      exec .carriageHome s = .next (s.setPrinter { s.printer with op := some (.carriageReturn cause start
        (some ⟨if s.printer.waiting then s.printer.pending else s.printer.active, s.printer.waiting, false⟩)) })

/-- A symbol that the printer takes joins the tail of its queue, or is acted on at once by an IDLE engine with an empty queue and nothing
owed; it is refused for good in FAULT and for a time at 128 symbols and while STOPPED. The completion of an operation: a glyph or a SPACE
moves the column on, at the last column stays under HOLD and owes CR-LF under WRAP; a carriage return puts the column at its target's
margin, loads a pending target and owes what it owes; the engine then begins the follow-on, stops for want of paper, or takes the head of
the queue, a BELL driving the bell and a BLANK, an explicit shift or WRU doing nothing, the next head following at the same instant, CR
beginning a carriage return and LF a line feed; and the bell timer's expiry releases the pin (R62, R126, R127, R129 to R132, R134, R135).
That a SET FORMAT taken between home and the end of the return waits for the next return is the model's choice, log entry 21. -/
def Obligations.PrinterCompletes : Prop :=
  let silent (y : Symbol) := y.kind = .bell ∨ y.kind = .blank ∨ y.kind = .explicitShift ∨ y.kind = .wru
  let begins (y : Symbol) (column spacing : Nat) (op : PrintOp) :=
    (y.kind = .printable ∨ y.kind = .mutilated ∨ y.kind = .space) ∧ op = .advance y
      ∨ y.kind = .cr ∧ op = .carriageReturn .queue (some column) none ∨ y.kind = .lf ∧ op = .lineFeed spacing
  (∀ (r : Printer) (y : Symbol),
    r.offer = (if r.engine = .fault then .permanent else if r.engine = .stopped ∨ 128 ≤ r.queue.length then .forTime else .takes)
    ∧ (r.engine ≠ .idle ∨ r.followOn ≠ .none → r.accept y = { r with queue := r.queue ++ [y] })
    ∧ (r.engine = .idle → r.followOn = .none → r.queue = [] →
        (∀ op, begins y r.column r.active.spacing op → r.accept y = { r with engine := .busy, op := some op })
        ∧ (silent y → r.accept y = { r with op := none, bell := r.bell || y.kind == .bell })))
  ∧ (∀ (s : State) (y : Symbol), s.printer.op = some (.advance y) → s.printer.followOn = .none → s.printer.paperOut = false →
    let r := s.printer
    let last := r.active.lineLength - 1 ≤ r.column
    let col := if last then r.column else r.column + 1
    (last → r.active.mode = .hold) → ∀ run rest, r.queue = run ++ rest → (∀ z ∈ run, silent z) →
    let rung := r.bell || run.any (fun z => z.kind == .bell)
    (rest = [] → Leaves .printCompletion s (s.setPrinter { r with
        column := col, queue := [], engine := .idle, op := none, bell := rung }))
    ∧ (∀ z zs op, rest = z :: zs → begins z col r.active.spacing op → Leaves .printCompletion s (s.setPrinter { r with
        column := col, queue := zs, engine := .busy, op := some op, bell := rung })))
  ∧ (∀ (s : State) (y : Symbol), s.printer.op = some (.advance y) → s.printer.followOn = .none →
    let r := s.printer
    let last := r.active.lineLength - 1 ≤ r.column
    let col := if last then r.column else r.column + 1
    (r.paperOut = false → r.queue = [] → (last → r.active.mode = .hold) →
      Leaves .printCompletion s (s.setPrinter { r with column := col, engine := .idle, op := none }))
    ∧ (∀ z zs, r.paperOut = false → r.queue = z :: zs → (last → r.active.mode = .hold) →
        (z.kind = .printable ∨ z.kind = .mutilated ∨ z.kind = .space) →
        Leaves .printCompletion s (s.setPrinter { r with column := col, queue := zs, engine := .busy, op := some (.advance z) }))
    ∧ (r.paperOut = false → last → r.active.mode = .wrap →
        Leaves .printCompletion s (s.setPrinter { r with
          followOn := .crLf, engine := .busy, op := some (.carriageReturn .wrap (some r.column) none) }))
    ∧ (r.paperOut = true → (last → r.active.mode = .hold) →
        Leaves .printCompletion s (post .printerStopped (s.setPrinter { r with
          column := col, engine := .stopped, op := none })))
    ∧ (r.paperOut = true → last → r.active.mode = .wrap →
        Leaves .printCompletion s (post .printerStopped (s.setPrinter { r with
          followOn := .crLf, engine := .stopped, op := none }))))
  ∧ (∀ (s : State) (cause : CrCause) (start : Option Nat) (t : CrTarget),
      s.printer.op = some (.carriageReturn cause start (some t)) → s.printer.paperOut = false → cause ≠ .restart →
      (s.printer.followOn = if cause = .wrap then .crLf else .none) →
      let r := s.printer
      let active := if t.fromPending then t.format else r.active
      let r1 : Printer := { r with
        column := t.format.margin, active := active
        waiting := if t.fromPending then t.superseded && r.waiting else r.waiting
        followOn := .none }
      let owes := cause = .wrap ∨ (cause = .queue ∧ active.crAddsLf = true)
      let s1 : State := if t.fromPending then post .formatLoaded s else s
      (owes → Leaves .printCompletion s (s1.setPrinter { r1 with engine := .busy, op := some (.lineFeed active.spacing) }))
      ∧ (¬ owes → r.queue = [] → Leaves .printCompletion s (s1.setPrinter { r1 with engine := .idle, op := none })))
  ∧ (∀ (s : State) (n : Nat), (s.printer.op = some (.lineFeed n) ∨ s.printer.op = some (.marginMove n)) →
      s.printer.followOn = .none → s.printer.paperOut = false → s.printer.queue = [] →
      Leaves .printCompletion s (s.setPrinter { s.printer with engine := .idle, op := none }))
  ∧ ∀ s : State, exec .bellExpiry s = .next (s.setPrinter { s.printer with bell := false })

/-- A jam before home puts the engine in FAULT with PRINTER FAULT posted, and discards with a bell the symbols typed toward it that
wait; PRINTER RESTART then starts one homing return, is refused BUSY while it runs and changes nothing outside FAULT; no paper stops an
IDLE engine, with its event, and paper starts a STOPPED one (no channel at work) (R69, R134 to R138). -/
def Obligations.PrinterStopsAndRestarts : Prop :=
  (∀ s : State, (∃ cause start, s.printer.op = some (.carriageReturn cause start none)) → s.ch0 = none → s.ch1 = none →
    Leaves .carriageJam s (post .printerFault (s.setPrinter { s.printer with
      engine := .fault, op := none, followOn := .none, restart := false })))
  ∧ (∀ s : State, (∃ cause start, s.printer.op = some (.carriageReturn cause start none)) → s.ch0 = none → s.ch1 = none →
    s.kb.typeahead ≠ [] → (if s.kb.mode = .line then s.dist.rowLine else s.dist.rowLocal).printer = true →
    s.line.txChar ≠ none → s.line.holder ≠ some .keyboard → .keyboard ∉ s.line.requests →
    exec .carriageJam s = .next (post .printerFault { s with
      kb := { s.kb with typeahead := [] }
      printer := { s.printer with engine := .fault, op := none, followOn := .none, restart := false, bell := true } }))
  ∧ (∀ (p : Port) (s : State),
    (s.printer.engine = .fault → s.printer.restart = false → exec (.printerRestart p) s = .next ((s.setPrinter { s.printer with
        restart := true, op := some (.carriageReturn .restart none none) }).answer p ⟨0x51, .started, none, []⟩))
    ∧ (s.printer.engine = .fault → s.printer.restart = true →
        exec (.printerRestart p) s = .next (s.answer p ⟨0x51, .refused, some .busy, []⟩))
    ∧ (s.printer.engine ≠ .fault → exec (.printerRestart p) s = .next (s.answer p ⟨0x51, .done, none, []⟩)))
  ∧ (∀ s : State,
    (s.printer.engine = .idle → exec .paperOut s = .next (post .printerStopped (s.setPrinter { s.printer with
        paperOut := true, engine := .stopped })))
    ∧ (s.printer.engine ≠ .idle → exec .paperOut s = .next (s.setPrinter { s.printer with paperOut := true }))
    ∧ (s.printer.engine ≠ .stopped → exec .paperPresent s = .next (s.setPrinter { s.printer with paperOut := false }))
    ∧ (s.printer.engine = .stopped → s.printer.followOn = .none → s.printer.queue = [] →
        Leaves .paperPresent s (post .printerReady (s.setPrinter { s.printer with
          paperOut := false, engine := .idle, op := none }))))
  ∧ (∀ (s : State) (start : Option Nat) (t : CrTarget), s.printer.op = some (.carriageReturn .restart start (some t)) →
      s.printer.followOn = .none → s.printer.queue = [] → t.fromPending = false →
      let r : Printer := { s.printer with column := t.format.margin, op := none, restart := false }
      (s.printer.paperOut = false → Leaves .printCompletion s (post .printerReady (s.setPrinter { r with engine := .idle })))
      ∧ (s.printer.paperOut = true → Leaves .printCompletion s (post .printerStopped (s.setPrinter { r with engine := .stopped }))))

/-! ## The Tape Punch (chapter 8) -/

/-- PUNCH FEED clamps its count to 255, refuses a count of 0 RANGE, an engine OFF STATE and a queue without room FULL; otherwise
that many BLANK symbols join the tail, and an IDLE engine takes the head, forming its rows; a BLANK's row leaves punch case as it is (R9,
R12, R143, R149). The
layout of the results is the model's choice, log entry 18, and that the queue count is read after the head has been taken, log entry 38. -/
def Obligations.PunchFeedJoinsBlanks : Prop :=
  ∀ (p : Port) (count : Half) (s : State),
    let n := min 255 count.toNat
    (n = 0 → exec (.punchFeed p count) s = .next (s.answer p ⟨0x58, .refused, some .range, []⟩))
    ∧ (n ≠ 0 → s.punch.engine = .off → exec (.punchFeed p count) s = .next (s.answer p ⟨0x58, .refused, some .state, []⟩))
    ∧ (n ≠ 0 → s.punch.engine ≠ .off → 64 < s.punch.queue.length + n →
        exec (.punchFeed p count) s = .next (s.answer p ⟨0x58, .refused, some .full, []⟩))
    ∧ (n ≠ 0 → s.punch.engine ≠ .off → s.punch.queue.length + n ≤ 64 →
        (s.punch.engine ≠ .idle → exec (.punchFeed p count) s = .next ((s.setPunch { s.punch with
          queue := s.punch.queue ++ List.replicate n ⟨0, .neutral, false⟩ }).answer p ⟨0x58, .done, none,
            [0, byteOf n, byteOf (s.punch.queue.length + n)]⟩))
        ∧ (s.punch.engine = .idle → s.punch.queue = [] → exec (.punchFeed p count) s = .next ((s.setPunch { s.punch with
          queue := List.replicate (n - 1) ⟨0, .neutral, false⟩, engine := .busy, rows := [0] }).answer p ⟨0x58, .done, none,
            [0, byteOf n, byteOf (n - 1)]⟩))
        ∧ (∀ y ys, s.punch.engine = .idle → s.punch.queue = y :: ys → exec (.punchFeed p count) s = .next ((s.setPunch
          (s.punch.feeds y (ys ++ List.replicate n ⟨0, .neutral, false⟩))).answer p ⟨0x58, .done, none,
            [0, byteOf n, byteOf (ys.length + n)]⟩)))

/-- A symbol that the punch takes joins the tail of its queue, or is formed into its rows at once by an IDLE engine with an empty
queue; it is refused for good while OFF and for a time at 64 symbols and in TAPE-OUT. A row that ends is counted, and a running counter
falls by 1, setting the tape-out mark with its event where it reaches 0. A second row then begins, setting punch case where it is a
shift. After the last row the engine enters OFF where an off mark is set, else TAPE-OUT where that mark is set, else takes the head of
the queue, else becomes IDLE (no channel at work) (R9, R12, R62, R142 to R146). -/
def Obligations.PunchRowsComplete : Prop :=
  (∀ (r : Punch) (y : Symbol),
    r.offer = (if r.engine = .off then .permanent else if r.engine = .tapeOut ∨ 64 ≤ r.queue.length then .forTime else .takes)
    ∧ (r.engine ≠ .idle → r.accept y = { r with queue := r.queue ++ [y] })
    ∧ (r.engine = .idle → r.queue = [] →
        let rows := if y.mutilated then [31] else
          if y.cls = .letters ∧ r.caseNow ≠ .letters then [31, y.code]
          else if y.cls = .figures ∧ r.caseNow ≠ .figures then [30, y.code] else [y.code]
        r.accept y = { r with
          engine := .busy, rows := rows
          caseNow := if rows.head? = some 31 then .letters else if rows.head? = some 30 then .figures else r.caseNow }))
  ∧ ∀ (s : State) (row : BitVec 5) (rest : List (BitVec 5)), s.punch.rows = row :: rest → s.punch.engine = .busy →
    let u := s.punch
    let outNow := u.counter = some 1
    let marked := u.tapeOut = true ∨ outNow
    let v : Punch := { u with
      rows := rest, rowsPunched := min 65535 (u.rowsPunched + 1), counter := u.counter.map (· - 1)
      tapeOut := u.tapeOut || u.counter == some 1 }
    let s1 : State := if outNow then post .punchTapeOut s else s
    (∀ next more, rest = next :: more → exec .punchRowCompletion s = .next (s1.setPunch { v with
      caseNow := if next = 31 then .letters else if next = 30 then .figures else u.caseNow }))
    ∧ (rest = [] → (u.switchOff = true ∨ u.portOff = true) → s.ch0 = none → s.ch1 = none →
        ∀ first, u.firstOff = some first →
        Leaves .punchRowCompletion s (post (.punchOff first) (s1.setPunch { v with engine := .off })))
    ∧ (rest = [] → u.switchOff = false → u.portOff = false → marked →
        Leaves .punchRowCompletion s (s1.setPunch { v with engine := .tapeOut }))
    ∧ (rest = [] → u.switchOff = false → u.portOff = false → ¬ marked → u.queue = [] →
        Leaves .punchRowCompletion s (s1.setPunch { v with engine := .idle }))
    ∧ (rest = [] → u.switchOff = false → u.portOff = false → ¬ marked → ∀ y ys, u.queue = y :: ys →
        let rows := if y.mutilated then [31] else
          if y.cls = .letters ∧ u.caseNow ≠ .letters then [31, y.code]
          else if y.cls = .figures ∧ u.caseNow ≠ .figures then [30, y.code] else [y.code]
        Leaves .punchRowCompletion s (s1.setPunch { v with
          queue := ys, rows := rows
          caseNow := if rows.head? = some 31 then .letters else if rows.head? = some 30 then .figures else u.caseNow }))

/-- PUNCH OFF and the switch set their marks, PUNCH ON and the switch clear them: an IDLE engine or one in TAPE-OUT enters OFF at once,
with PUNCH OFF and the mark set first; a BUSY one goes on; clearing the last mark makes an engine in OFF TAPE-OUT or, with PUNCH READY,
IDLE, which takes the head of its queue at once (no channel at work) (R9, R12, R143, R148). The layout of the results and how a yes or set
mark reads are the model's choice, log entries 18 and 50, when the report of PUNCH ON is read, log entry 44, and that, of two marks, the
one that remains counts as the mark set first once the other is cleared while BUSY, log entry 53. -/
def Obligations.PunchOffMarksAct : Prop :=
  -- the report
  (∀ r : Punch, r.report = [match r.engine with | .idle => 0 | .busy => 1 | .tapeOut => 2 | .off => 3, if r.switchOff then 1 else 0,
    if r.portOff then 1 else 0, if r.tapeLow then 1 else 0, if r.tapeOut then 1 else 0, byteOf r.queue.length])
  ∧ ∀ (s : State) (c : Instr) (on : Bool) (cause : OffCause) (replied : State → State), s.ch0 = none → s.ch1 = none →
    ((on = false ∧ cause = .switch ∧ c = .punchSwitchOff ∧ ∀ t, replied t = t)
      ∨ (on = true ∧ cause = .switch ∧ c = .punchSwitchOn ∧ ∀ t, replied t = t)
      ∨ (∃ p, on = false ∧ cause = .command ∧ c = .punchOff p ∧ ∀ t, replied t = t.answer p ⟨0x5A, .done, none, t.punch.report⟩)
      ∨ (∃ p, on = true ∧ cause = .command ∧ c = .punchOn p ∧ ∀ t, replied t = t.answer p ⟨0x59, .done, none, t.punch.report⟩)) →
    let u := s.punch
    let other := if cause = .switch then u.portOff else u.switchOff
    let mark (v : Bool) (first : Option OffCause) : Punch := { u with
      switchOff := if cause = .switch then v else u.switchOff, portOff := if cause = .command then v else u.portOff
      firstOff := first }
    (on = false → u.engine = .idle ∨ u.engine = .tapeOut →
      Leaves c s (replied (post (.punchOff (u.firstOff.getD cause))
        (s.setPunch { mark true (some (u.firstOff.getD cause)) with engine := .off }))))
    ∧ (on = false → u.engine = .busy ∨ u.engine = .off →
        Leaves c s (replied (s.setPunch (mark true (some (u.firstOff.getD cause))))))
    ∧ (on = true → (other = true ∨ u.engine ≠ .off) → Leaves c s (replied (s.setPunch (mark false
        (if other = false then none else if cause = .switch then some .command else some .switch)))))
    ∧ (on = true → other = false → u.engine = .off → u.tapeOut = true →
        Leaves c s (replied (s.setPunch { mark false none with engine := .tapeOut })))
    ∧ (on = true → other = false → u.engine = .off → u.tapeOut = false → u.queue = [] →
        Leaves c s (replied (post .punchReady (s.setPunch { mark false none with engine := .idle, rows := [] }))))
    ∧ (∀ y ys, on = true → other = false → u.engine = .off → u.tapeOut = false → u.queue = y :: ys →
        Leaves c s (replied (post .punchReady (s.setPunch ((mark false none).feeds y ys)))))

/-- TAPE LOW loads the counter and posts PUNCH TAPE LOW, once; a counter at 0 sets the tape-out mark with its event; tape present clears
the low mark and stops the counter; PUNCH RESUME clears the tape-out mark, refused STATE while the tape is low, and an engine that it
makes IDLE takes the head of its queue; CONFIGURE PUNCH stores a clamped allowance and may clear the rows count it returns, a clear option
past 1 refused RANGE (R143, R145 to R147, R150, R192). How a counter that does not run reads is log entry 17, how the operation in flight
reads log entry 43; the layout of the results and how a yes or set mark reads are the model's choice, log entries 18 and 50; so are TAPE
LOW given again while the tape is low, log entry 3, when the row PUNCH TAPE OUT acts, log entry 27, that presence bits above 0 of
CONFIGURE PUNCH are ignored, log entry 31, and when the report of PUNCH RESUME is read, log entry 44. -/
def Obligations.TapeSupplyIsWatched : Prop :=
  -- the result of CONFIGURE PUNCH
  (∀ r : Punch,
    let two (n : Nat) : List Byte := [byteOf (n / 256), byteOf n]
    r.configBytes = [if r.counter.isSome then 1 else 0] ++ two r.allowance
      ++ [match r.engine with | .idle => 0 | .busy => 1 | .tapeOut => 2 | .off => 3,
        if r.rows = [] then 0xFF else byteOf r.rows.length, if r.switchOff then 1 else 0, if r.portOff then 1 else 0,
        if r.tapeLow then 1 else 0, if r.tapeOut then 1 else 0]
      ++ (match r.counter with | some n => two n | none => [0, 0]) ++ [byteOf r.queue.length] ++ two r.rowsPunched) ∧
  (∀ s : State, let u := s.punch
    (u.tapeLow = true → exec .tapeLow s = .next s)
    ∧ (u.tapeLow = false → u.allowance ≠ 0 → exec .tapeLow s = .next (post (.punchTapeLow u.allowance) (s.setPunch { u with
        tapeLow := true, counter := some u.allowance })))
    ∧ (u.tapeLow = false → u.allowance = 0 → exec .tapeLow s = .next (post .punchTapeOut (post (.punchTapeLow 0) (s.setPunch { u with
        tapeLow := true, counter := some 0, tapeOut := true, engine := if u.engine = .idle then .tapeOut else u.engine }))))
    ∧ exec .tapePresent s = .next (s.setPunch { u with tapeLow := false, counter := none })
    ∧ (u.counter = some 0 → u.tapeOut = false → exec .punchTapeOut s = .next (post .punchTapeOut (s.setPunch { u with
        tapeOut := true, engine := if u.engine = .idle then .tapeOut else u.engine })))
    ∧ (u.counter ≠ some 0 ∨ u.tapeOut = true → exec .punchTapeOut s = .next s))
  ∧ (∀ (p : Port) (s : State), let u := s.punch
    (u.tapeOut = false → exec (.punchResume p) s = .next (s.answer p ⟨0x5B, .done, none, u.report⟩))
    ∧ (u.tapeOut = true → u.tapeLow = true → exec (.punchResume p) s = .next (s.answer p ⟨0x5B, .refused, some .state, u.report⟩))
    ∧ (u.tapeOut = true → u.tapeLow = false → u.engine ≠ .tapeOut → ∃ v : Punch,
        v = { u with tapeOut := false, caseNow := .unknown }
        ∧ Leaves (.punchResume p) s ((s.setPunch v).answer p ⟨0x5B, .done, none, v.report⟩))
    ∧ (u.tapeOut = true → u.tapeLow = false → u.engine = .tapeOut → u.queue = [] → ∃ v : Punch,
        v = { u with tapeOut := false, caseNow := .unknown, engine := .idle, rows := [] }
        ∧ Leaves (.punchResume p) s ((post .punchReady (s.setPunch v)).answer p ⟨0x5B, .done, none, v.report⟩))
    ∧ (∀ y ys, u.tapeOut = true → u.tapeLow = false → u.engine = .tapeOut → u.queue = y :: ys → ∃ v : Punch,
        v = ({ u with tapeOut := false, caseNow := .unknown } : Punch).feeds y ys
        ∧ Leaves (.punchResume p) s ((post .punchReady (s.setPunch v)).answer p ⟨0x5B, .done, none, v.report⟩)))
  ∧ ∀ (p : Port) (presence : Byte) (allowance : Half) (clear : Byte) (s : State),
    (1 < clear.toNat → exec (.configurePunch p presence allowance clear) s = .next (s.answer p ⟨0x5C, .refused, some .range, []⟩))
    ∧ (clear.toNat ≤ 1 → ∃ v : Punch,
        v = { s.punch with allowance := if presence.getLsbD 0 then min 4000 allowance.toNat else s.punch.allowance }
        ∧ exec (.configurePunch p presence allowance clear) s = .next ((s.setPunch { v with
          rowsPunched := if clear = 1 then 0 else s.punch.rowsPunched }).answer p ⟨0x5C, .done, none, v.configBytes⟩))

/-! ## The Identity Store (chapter 9) -/

/-- READ SLOT answers the cells of a slot and the store's state, an operation in flight too; PROGRAM SLOT refuses RANGE, LOCKED, BUSY,
STATE, ORDER and COUNT in that order, a protected store taking the operation that will fail; else it spends one count cell, or ends with
IDENTITY FAIL at once where that does not read back, and the operation is in flight, which at its completion has put the text's zeros into
its positions and posts IDENTITY DONE, or FAIL where they do not read back; a byte that fails R5 among what is refused RANGE (R5, R153 to
R156, R159, R164, R191, R193). The layout of the results is the model's choice, log entry 18; so are that a refused command records the
level of the pin it read, log entry 12, and the count that STARTED carries on a protected store, log entry 35. How far a READ SLOT finds a
PROGRAM in flight is a free value that it records in the cells, log entry 9. The check outcome as a number of wrong bits, log entry 8, and
which cells take no write, log entry 11, are the model's own records. -/
def Obligations.SlotsAreReadAndProgrammed : Prop :=
  (∀ (p : Port) (slot : Byte) (s : State),
    (7 < slot.toNat → exec (.readSlot p slot) s = .next (s.answer p ⟨0x60, .refused, some .range, []⟩))
    ∧ (slot.toNat ≤ 7 →
      let result (i : Identity) (k : IdSlot) : List Byte := k.positions ++
        [k.length, byteOf (k.count.countP fun w => w = false), boolOf k.marker,
          if k.marker then byteOf k.wrongBits.length else 3, boolOf i.protect] ++
        (match i.op with
          | none => [0xFF, 0xFF]
          | some (.program n _ _) => [0, byteOf n]
          | some (.commit n _ _ _) => [1, byteOf n]
          | some .protect => [2, 0xFF]
          | some (.protectedFail _ n) => [3, byteOf n]) ++
        (match i.latch with | some l => [byteOf l.slot, byteOf l.text.length] | none => [0xFF, 0]) ++ [boolOf s.ident.wruResponse]
      (∀ k, s.ident.slots[slot.toNat]? = some k → (∀ n first text, s.ident.op ≠ some (.program n first text)) →
        (k.marker = true → k.wrongBits.length ≤ 2) →
        exec (.readSlot p slot) s = .next (s.answer p ⟨0x60, .done, none, result s.ident k⟩))
      -- a PROGRAM in flight
      ∧ ∀ n first text old, s.ident.op = some (.program n first text) → s.ident.slots[n]? = some old → old.deadBits = [] →
        ∃ (now : IdSlot) (i : Identity), old.CutAt now first text ∧ i = { s.ident with slots := s.ident.slots.set n now }
          ∧ ∀ k, i.slots[slot.toNat]? = some k → (k.marker = true → k.wrongBits.length ≤ 2) →
            exec (.readSlot p slot) s = .next (({ s with ident := i, freeCount := s.freeCount + 1 } : State).answer p
              ⟨0x60, .done, none, result i k⟩)))
  ∧ (∀ (p : Port) (enable : Bool) (slot first : Byte) (text : List Byte) (s : State),
    let c : Instr := .programSlot p enable slot first text
    let s0 : State := s.setPins { s.pins with writeEnable := enable }
    let refused (why : Reason) := exec c s = .next (s0.answer p ⟨0x61, .refused, some why, []⟩)
    let bad := 7 < slot.toNat ∨ 20 < first.toNat + text.length ∨ ∃ b ∈ text, ¬ SymbolPasses b
    1 ≤ text.length → text.length ≤ 20 →
    (bad → refused .range) ∧ (¬ bad → enable = false → refused .locked)
    ∧ (¬ bad → enable = true → s.ident.op ≠ none → refused .busy)
    ∧ ∀ k, ¬ bad → enable = true → s.ident.op = none → s.ident.slots[slot.toNat]? = some k →
      let left := k.count.countP fun w => w = false
      let gap := ∃ (j : Nat) (l : IdSlot), j < slot.toNat ∧ s.ident.slots[j]? = some l ∧ l.marker = false
      (s.ident.protect = true → exec c s = .next ((s0.setIdent { s.ident with op := some (.protectedFail false slot.toNat) }).answer p
          ⟨0x61, .started, none, [slot, byteOf left]⟩))
      ∧ (s.ident.protect = false → k.marker = true → refused .state)
      ∧ (s.ident.protect = false → k.marker = false → gap → refused .order)
      ∧ (s.ident.protect = false → k.marker = false → ¬ gap → left = 0 → refused .count)
      ∧ (s.ident.protect = false → k.marker = false → ¬ gap → ∀ n, (∀ j, j < n → k.count[j]? = some true) →
          k.count[n]? = some false → 184 + n ∉ k.deadBits →
          exec c s = .next ((s0.setIdent { s.ident with
            slots := s.ident.slots.set slot.toNat { k with count := k.count.set n true }
            op := some (.program slot.toNat first.toNat text) }).answer p ⟨0x61, .started, none, [slot, byteOf (left - 1)]⟩))
      ∧ (s.ident.protect = false → k.marker = false → ¬ gap → ∀ n, (∀ j, j < n → k.count[j]? = some true) →
          k.count[n]? = some false → 184 + n ∈ k.deadBits →
          exec c s = .next ((post (.identityFail .program (some slot.toNat) .verify (some left)) s0).answer p
            ⟨0x61, .started, none, [slot, byteOf left]⟩)))
  ∧ ∀ (s : State) (n first : Nat) (text : List Byte) (k : IdSlot), s.ident.op = some (.program n first text) →
      s.ident.slots[n]? = some k → k.deadBits = [] → first + text.length ≤ k.positions.length →
      ∃ cells : List Byte, cells.length = k.positions.length
        ∧ (∀ j, cells[j]? = if first ≤ j then
            (k.positions[j]?).map (fun old => match text[j - first]? with | some b => old &&& b | none => old) else k.positions[j]?)
        ∧ let same := (cells.drop first).take text.length = text
          let left := k.count.countP fun w => w = false
          exec .programCompletion s = .next (post
            (if same then .identityDone .program (some n) (some left) else .identityFail .program (some n) .verify (some left))
            (s.setIdent { s.ident with op := none, slots := s.ident.slots.set n { k with positions := cells } }))

/-- COMMIT SLOT starts a commit whose three cells are then written one by one, length, check code and marker, the last posting IDENTITY
DONE and loading the latch, a cell that does not read back posting IDENTITY FAIL; PROTECT starts the protect operation, which sets its
marker; on a protected store the operations fail; the text that COMMIT needs is symbols that pass R5 (R5, R154, R157 to R161, R191). The
check code is a free value, log entry 10; that a refused command records the level of the pin it read is the model's choice, log entry 12,
and so is what STARTED carries on a protected store, log entry 35; which bits are wrong, none after the check code is written, log entry
8, and which cells take no write, log entry 11, are its own records. -/
def Obligations.SlotsAreCommitted : Prop :=
  (∀ (p : Port) (enable : Bool) (slot length : Byte) (s : State),
    let c : Instr := .commitSlot p enable slot length
    let s0 : State := s.setPins { s.pins with writeEnable := enable }
    let refused (why : Reason) := exec c s = .next (s0.answer p ⟨0x62, .refused, some why, []⟩)
    let bad := 7 < slot.toNat ∨ length = 0 ∨ 20 < length.toNat
    (bad → refused .range) ∧ (¬ bad → enable = false → refused .locked)
    ∧ (¬ bad → enable = true → s.ident.op ≠ none → refused .busy)
    ∧ ∀ k, ¬ bad → enable = true → s.ident.op = none → s.ident.slots[slot.toNat]? = some k →
      let gap := ∃ (j : Nat) (l : IdSlot), j < slot.toNat ∧ s.ident.slots[j]? = some l ∧ l.marker = false
      let unfit := ∃ b ∈ k.positions.take length.toNat, ¬ SymbolPasses b
      (s.ident.protect = true → exec c s = .next ((s0.setIdent { s.ident with op := some (.protectedFail true slot.toNat) }).answer p
          ⟨0x62, .started, none, []⟩))
      ∧ (s.ident.protect = false → k.marker = true → refused .state)
      ∧ (s.ident.protect = false → k.marker = false → gap → refused .order)
      ∧ (s.ident.protect = false → k.marker = false → ¬ gap → unfit → refused .range)
      ∧ (s.ident.protect = false → k.marker = false → ¬ gap → ¬ unfit → exec c s = .next ((s0.setIdent { s.ident with
          op := some (.commit slot.toNat length (Config.identityCheck k.positions length) 0) }).answer p
          ⟨0x62, .started, none, []⟩)))
  ∧ (∀ (s : State) (n : Nat) (length : Byte) (code : Half) (k : IdSlot), s.ident.slots[n]? = some k → k.deadBits = [] →
    let ended (e : Event) (k' : IdSlot) := ∃ i : Identity, i = { s.ident with op := none, slots := s.ident.slots.set n k' }
      ∧ exec .commitCellWrite s = .next (postAll (loadFrom i.descending).2 (post e (s.setIdent { i with
        latch := (loadFrom i.descending).1 })))
    (s.ident.op = some (.commit n length code 0) →
      (k.length &&& length = length → exec .commitCellWrite s = .next (s.setIdent { s.ident with
        op := some (.commit n length code 1), slots := s.ident.slots.set n { k with length := length } }))
      ∧ (k.length &&& length ≠ length →
        ended (.identityFail .commit (some n) .verify none) { k with length := k.length &&& length }))
    ∧ (s.ident.op = some (.commit n length code 1) →
      (k.check &&& code = code → exec .commitCellWrite s = .next (s.setIdent { s.ident with
        op := some (.commit n length code 2), slots := s.ident.slots.set n { k with check := code, wrongBits := [] } }))
      ∧ (k.check &&& code ≠ code → ended (.identityFail .commit (some n) .verify none) { k with check := k.check &&& code }))
    ∧ (s.ident.op = some (.commit n length code 2) → ended (.identityDone .commit (some n) none) { k with marker := true }))
  ∧ (∀ (p : Port) (enable : Bool) (s : State),
    let s0 : State := s.setPins { s.pins with writeEnable := enable }
    (enable = false → exec (.protect p enable) s = .next (s0.answer p ⟨0x63, .refused, some .locked, []⟩))
    ∧ (enable = true → s.ident.op ≠ none → exec (.protect p enable) s = .next (s0.answer p ⟨0x63, .refused, some .busy, []⟩))
    ∧ (enable = true → s.ident.op = none → s.ident.protect = true →
        exec (.protect p enable) s = .next (s0.answer p ⟨0x63, .done, none, []⟩))
    ∧ (enable = true → s.ident.op = none → s.ident.protect = false → exec (.protect p enable) s = .next
        ((s0.setIdent { s.ident with op := some .protect }).answer p ⟨0x63, .started, none, []⟩)))
  ∧ ∀ s : State,
    (s.ident.op = some .protect → s.ident.protectDead = false → exec .protectCompletion s = .next
      (post (.identityDone .protect none none) (s.setIdent { s.ident with op := none, protect := true })))
    ∧ (∀ commit n, s.ident.op = some (.protectedFail commit n) → exec .protectedFailCompletion s = .next
      (post (.identityFail (if commit then .commit else .program) (some n) .protectedStore none)
        (s.setIdent { s.ident with op := none })))

/-! ## Calls (chapter 10) -/

/-- CALL IN and CALL OUT are refused STATE during a call; else they start one: RX case LETTERS, TX case UNKNOWN, the quality
record, the history, the gate and the captured identity cleared, the idle timer running, CALL posted. An unattended call locks the
keyboard, adds STORE, and with identification waits for its settle time, at whose end WRU is handed to CONTROL (no drain in
progress, no channel waiting for CALL OUT) (R38, R39, R167, R169). The order of hand-offs and events within the one instant is the model's
choice, log entry 5, and that the expiry of a settle timer that does not run changes nothing, log entry 3. -/
def Obligations.CallsStart : Prop :=
  (∀ (p : Port) (s : State), s.calls.state ≠ .idle →
    exec (.callIn p) s = .next (s.answer p ⟨0x70, .refused, some .state, []⟩)
    ∧ exec (.callOut p) s = .next (s.answer p ⟨0x71, .refused, some .state, []⟩))
  ∧ (∀ (p : Port) (s : State), s.calls.state = .idle → s.calls.drain = none →
    let l : LineUnit := { s.line with
      rxCase := .letters, txCase := .unknown, peakP := 0, received := 0, overCount := 0, framingCount := 0, distReported := false }
    let d : Distributor := { s.dist with history := [], gateOpen := false }
    let c : Calls := { s.calls with captured := [], status := .none, idleT := some s.calls.idle }
    let s1 : State := { s with line := l, dist := d, store := { s.store with unstoredMark := false } }
    let locked : State := { s1 with kb := { s.kb with callLock := true }, dist := { d with storeAdd := true } }
    (s.calls.mode = .attended → Leaves (.callIn p) s ((post (.call .incoming .callIn) { s1 with calls := { c with
        state := .incoming, snapshot := some .attended, phase := some .traffic } }).answer p ⟨0x70, .done, none, []⟩))
    ∧ (s.calls.mode = .unattended → s.calls.identify = false →
        Leaves (.callIn p) s ((post (.call .incoming .callIn) { locked with calls := { c with
          state := .incoming, snapshot := some .unattended, phase := some .traffic } }).answer p ⟨0x70, .done, none, []⟩))
    ∧ (s.calls.mode = .unattended → s.calls.identify = true → s.calls.settle ≠ 0 →
        Leaves (.callIn p) s ((post (.call .incoming .callIn) { locked with calls := { c with
          state := .incoming, snapshot := some .unattended, phase := some .settle, settleT := some s.calls.settle } }).answer p
          ⟨0x70, .done, none, []⟩))
    ∧ (s.calls.mode = .unattended → s.calls.identify = true → s.calls.settle = 0 →
        Brings (.callIn p) s ((post (.call .incoming .callIn) { locked with
          line := { l with control := some ⟨6, .figures, false⟩ }.asked .control
          calls := { c with state := .incoming, snapshot := some .unattended, phase := some .capture, settleT := none
                            wruPending := true } }).answer p ⟨0x70, .done, none, []⟩))
    ∧ ((∀ ch w, s.chan ch = some w → w.phase = .pending → w.trigger ≠ .callOut) →
        Leaves (.callOut p) s ((post (.call .outgoing .callOut) { s1 with calls := { c with
          state := .outgoing, snapshot := some .attended, phase := some .traffic } }).answer p ⟨0x71, .done, none, []⟩)))
  ∧ ∀ s : State,
    (∀ n, s.calls.settleT = some n → Brings .settleExpiry s { s with
      line := { s.line with control := some ⟨6, .figures, false⟩ }.asked .control
      calls := { s.calls with settleT := none, phase := some .capture, wruPending := true } })
    ∧ (s.calls.settleT = none → exec .settleExpiry s = .next s)

/-- A call that ends by CALL CLEARED or by a guard stops its timers, takes CONTROL out of the arbiter, closes the received message
as INCOMPLETE, releases the keyboard and STORE and leaves no call, with CALL (IDLE) and, by a guard, SELF-CLEARED; the idle timer
reports in an attended call and clears an unattended one (no channel, no capture, no automatic send at work) (R168, R172 to R174,
R180). The order of hand-offs and events within the one instant is the model's choice, log entry 5, and that the expiry of a timer that
does not run changes nothing, log entry 3. -/
def Obligations.CallsEnd : Prop :=
  ∀ s : State,
    let closed : State := match s.store.slotLine with
      | none => s
      | some n => post (.messageClosed n .incomplete) (s.setStore { s.store with
          slotLine := none
          directory := s.store.directory.map (fun q => if q.number = n then
            { q with state := .incomplete, closedAt := some s.store.clock, holder := none } else q) })
    let owed := closed.store.directory.any fun q => q.printOwed && q.state != .opened
    let ended (cause : CallCause) : State := post (.call .idle cause) { closed with
      line := { s.line with control := none }.leave .control
      dist := { s.dist with storeAdd := false }
      kb := { s.kb with callLock := false }
      calls := { s.calls with
        state := .idle, snapshot := none, phase := none, settleT := none, captureStartT := false, captureGapT := false
        idleT := none, breakGuardT := false, clearGuardT := false, wruPending := false, drainReq := s.calls.drainReq && owed } }
    let quiet := s.ch0 = none ∧ s.ch1 = none ∧ s.calls.auto = none ∧ s.calls.capturing = false
      ∧ ∀ n, s.store.slotLine = some n → ∃ r, s.store.find n = some r ∧ r.holder = some .line
    (∀ p, s.calls.state = .idle → exec (.callCleared p) s = .next (s.answer p ⟨0x72, .done, none, []⟩))
    ∧ (∀ p, s.calls.state ≠ .idle → quiet →
        Leaves (.callCleared p) s ((ended .callCleared).answer p ⟨0x72, .done, none, []⟩))
    ∧ (s.calls.breakGuardT = true → quiet → Leaves .breakGuardExpiry s (post (.selfCleared .breakIn) (ended .self)))
    ∧ (s.calls.clearGuardT = true → quiet → Leaves .clearingGuardExpiry s (post (.selfCleared .clearing) (ended .self)))
    ∧ (s.calls.breakGuardT = false → exec .breakGuardExpiry s = .next s)
    ∧ (s.calls.clearGuardT = false → exec .clearingGuardExpiry s = .next s)
    ∧ (s.calls.idleT = none → exec .idleTimerExpiry s = .next s)
    ∧ (∀ t, s.calls.idleT = some t → (s.calls.state = .incoming ∨ s.calls.state = .outgoing) →
        s.calls.snapshot ≠ some .unattended →
        exec .idleTimerExpiry s = .next (post .idleTimeout { s with calls := { s.calls with idleT := some s.calls.idle } }))
    ∧ (∀ t, s.calls.idleT = some t → s.calls.state = .incoming → s.calls.snapshot = some .unattended → quiet →
        Leaves .idleTimerExpiry s (post (.clearRequested .idle) { closed with calls := { s.calls with
          state := .clearing, clearGuardT := true, settleT := none, idleT := none } }))

/-- SEND ANSWER-BACK makes an answer-back PENDING where none is and the latch holds text, and with a free transmitter begins it at once, its
first symbol or the shift it requires being taken and delivered as SENT; it is absorbed and counted while one is wanted or sent, and with an
empty latch is answered at once as one of no symbols; SEND WRU hands WRU to CONTROL in the TRAFFIC phase of a call with no capture asked
for or running (R12, R16, R35, R38, R39, R41 to R43, R66, R67, R171). -/
def Obligations.AnswerBacksAreAsked : Prop :=
  (∀ (p : Port) (s : State),
    (s.line.abState = .none → s.ident.latch ≠ none → Brings (.sendAnswerBack p) s ((s.setLine { s.line with
        abState := .pending, absorbed := 0 }).answer p ⟨0x74, .done, none, []⟩))
    ∧ (∀ (l : Latch) (y : Symbol) (ys : List Symbol), s.line.abState = .none → s.ident.latch = some l → l.text = y :: ys →
        s.line.txChar = none → s.line.txEnable = true → s.line.pendingRate = none → s.kb.typeahead = [] →
        .keyboard ∉ s.line.requests →
        let shift := (emission s.line.txCase y).1
        let code := (emission s.line.txCase y).2
        exec (.sendAnswerBack p) s = .next ((({ s with line := { s.line with
            txChar := some ⟨code, s.line.stopLen, shift⟩
            txCase := if code = 31 then .letters else if code = 30 then .figures
              else if code = 16 ∧ s.line.txUsos = true then .letters else s.line.txCase
            abState := .sending, absorbed := 0, abText := if shift then y :: ys else ys, abSent := if shift then 0 else 1
              } } : State).copied (if shift = true ∨ y.mutilated = true then ⟨code, .neutral, false⟩ else y)).answer p
          ⟨0x74, .done, none, []⟩))
    ∧ (s.line.abState = .none → s.ident.latch = none → s.calls.auto = none → Brings (.sendAnswerBack p) s
        ((post (.wruAnswered 0 0 true) s).answer p ⟨0x74, .done, none, []⟩))
    ∧ (s.line.abState ≠ .none → Brings (.sendAnswerBack p) s ((s.setLine { s.line with
        absorbed := min 255 (s.line.absorbed + 1) }).answer p ⟨0x74, .done, none, []⟩)))
  ∧ ∀ (p : Port) (s : State),
    (s.calls.state = .idle ∨ s.calls.state = .clearing →
      exec (.sendWru p) s = .next (s.answer p ⟨0x75, .refused, some .state, []⟩))
    ∧ (s.calls.state = .incoming ∨ s.calls.state = .outgoing →
      (s.calls.phase ≠ some .traffic ∨ s.calls.wruPending = true ∨ s.calls.capturing = true →
        exec (.sendWru p) s = .next (s.answer p ⟨0x75, .refused, some .busy, []⟩))
      ∧ (s.calls.phase = some .traffic → s.calls.wruPending = false → s.calls.capturing = false →
        Brings (.sendWru p) s (({ s with
          line := { s.line with control := some ⟨6, .figures, false⟩ }.asked .control
          calls := { s.calls with wruPending := true } } : State).answer p ⟨0x75, .started, none, []⟩)))

/-- A capture that its start timer or its gap timer ends posts CAPTURE with what was captured, and in an unattended call's identification
makes the phase TRAFFIC and writes the remote identity. AUTO SEND refuses NO SUCH, STATE and BUSY in that order, or makes the message
SENDING, counts the attempt, enters the AUTO SEND phase and hands WRU to CONTROL; the WRU's character begins the capture, whose identity is
compared at its end: HEADER follows a match, IDENT and a clear request another; the end of the answer-back hands CR, and the taking of CR
hands LF, after which BODY starts the lowest channel, or fails with CHANNEL; the channel's DONE makes the message SENT and begins the
TRAILER, which ends in a clear request; its hold or stop fails the attempt. A collection takes the next message of its list at its
channel's DONE or stop, and ends at its hold or after the last (R38, R39, R41, R43, R170, R172, R175 to R179). That the expiry of a timer that
does not run changes nothing is the model's choice, log entry 3; that HEADER and TRAILER are three waits each, log entry 22; the order of
events within one instant, log entry 5; when a channel's record is read for an answer, log entry 26; that a WRU taken in CLEARING clears
the pending mark, log entry 29; that the automatic send no longer names its channel once that is DONE, log entry 49; and that a capture's
beginning leaves the capture status as the last one left it, log entry 30. -/
def Obligations.CapturesEndAndSendsBegin : Prop :=
  let changed (d : List Record) (n : Nat) (f : Record → Record) := d.map fun q => if q.number = n then f q else q
  let inCall (s : State) := s.calls.state = .incoming ∨ s.calls.state = .outgoing
  let attempted (limit : Nat) (m : Record) : Record := { m with delivery := if limit ≤ m.attempts then .failed else .ready }
  let cleared (s : State) : State := post (.clearRequested .autoSend) { s with calls := { s.calls with
    state := .clearing, clearGuardT := true, settleT := none, idleT := none, auto := none, phase := some .traffic } }
  -- captures that end by a timer
  (∀ (s : State) (c : Instr), c = .captureStartExpiry ∧ s.calls.captureStartT = true ∨ c = .captureGapExpiry ∧ s.calls.captureGapT = true →
    let got := s.calls.captured
    let status : CapStatus := if got = [] then .timeout else .captured
    let ended : State := post (.capture status got.length (got.take 4)) { s with calls := { s.calls with
      capturing := false, captureStartT := false, captureGapT := false, status := status
      phase := if s.calls.phase = some .capture then some .traffic else s.calls.phase } }
    (s.calls.auto = none → s.calls.phase ≠ some .capture ∨ got = [] ∨ s.store.slotLine = none → Brings c s ended)
    ∧ (∀ n, s.calls.auto = none → s.calls.phase = some .capture → got ≠ [] → s.store.slotLine = some n →
        Brings c s (ended.setStore { s.store with directory := changed s.store.directory n (fun q => { q with remote := got }) }))
    ∧ (∀ (a : AutoSend) (r : Record), s.calls.auto = some a → a.step = .capture → s.calls.phase = some .autoSend →
        s.store.find a.message = some r →
        let accepted := r.expected = [] ∨ (got ≠ [] ∧ Matches r.expected got = true)
        let header (step : AutoStep) : State := ended.setCalls { ended.calls with auto := some { a with step := step } }
        (accepted → s.line.abState = .none → s.ident.latch ≠ none → Brings c s ((header .headerAnswer).setLine { s.line with
            abState := .pending, absorbed := 0 }))
        ∧ (accepted → s.line.abState ≠ .none → Brings c s ((header .headerAnswer).setLine { s.line with
            absorbed := min 255 (s.line.absorbed + 1) }))
        ∧ (accepted → s.line.abState = .none → s.ident.latch = none → Brings c s ((post (.wruAnswered 0 0 true)
            (header .headerCr)).setLine ({ s.line with control := some ⟨1, .neutral, false⟩ }.asked .control)))
        ∧ (¬ accepted → inCall s → Brings c s (cleared (post (.autoSendFailed a.message .ident) (ended.setStore { s.store with
            directory := changed s.store.directory a.message (attempted s.calls.attemptLimit) }))))))
  ∧ (∀ s : State, (s.calls.captureStartT = false → exec .captureStartExpiry s = .next s)
      ∧ (s.calls.captureGapT = false → exec .captureGapExpiry s = .next s))
  -- AUTO SEND
  ∧ (∀ (p : Port) (message : Half) (s : State),
    let refused (why : Reason) := exec (.autoSend p message) s = .next (s.answer p ⟨0x73, .refused, some why, []⟩)
    ((∀ r ∈ s.store.directory, r.number ≠ message.toNat) → refused .noSuch)
    ∧ ∀ r, s.store.find message.toNat = some r →
      let fit := s.calls.state = .outgoing ∧ s.calls.phase = some .traffic ∧ r.kind = .prepared ∧ r.state ≠ .opened
        ∧ r.delivery = .ready
      let busy := (s.ch0 ≠ none ∧ s.ch1 ≠ none) ∨ s.calls.wruPending = true ∨ s.calls.capturing = true
      (¬ fit → refused .state) ∧ (fit → busy → refused .busy)
      ∧ (fit → ¬ busy → Brings (.autoSend p message) s (({ s with
          store := { s.store with directory := changed s.store.directory message.toNat (fun q =>
            { q with delivery := .sending, attempts := min 9 (q.attempts + 1) }) }
          line := { s.line with control := some ⟨6, .figures, false⟩ }.asked .control
          calls := { s.calls with
            wruPending := true, phase := some .autoSend, auto := some ⟨message.toNat, .wru, none⟩ } } : State).answer p
          ⟨0x73, .started, none, []⟩)))
  -- what follows the characters of CONTROL
  ∧ (∀ (s : State) (k : TxChar) (y : Symbol), s.line.txChar = some k → s.kb.typeahead = [] → .keyboard ∉ s.line.requests →
    .control ∉ s.line.requests → s.line.holder = some .control → s.line.control = some y → s.line.abState = .none →
    s.line.txEnable = true → s.line.pendingRate = none → s.dist.rowSent = ⟨false, false, false, false⟩ → s.store.slotLine = none →
    let code := (emission s.line.txCase y).2
    let calls : Calls := { s.calls with idleT := if inCall s then some s.calls.idle else s.calls.idleT }
    let line : LineUnit := { s.line with
      txChar := some ⟨code, s.line.stopLen, false⟩, txCase := caseAfter s.line.txUsos s.line.txCase code
      control := none, holder := s.line.requests.head?, requests := s.line.requests.tail }
    ((emission s.line.txCase y).1 = true → exec .characterEnd s = .next { s with
        line := { s.line with
          txChar := some ⟨code, s.line.stopLen, true⟩, txCase := if code = 31 then .letters else .figures }
        calls := calls })
    ∧ ((emission s.line.txCase y).1 = false → y = ⟨6, .figures, false⟩ →
        exec .characterEnd s = .next { s with
          line := line
          calls := if s.calls.state = .clearing then { calls with wruPending := false } else { calls with
            wruPending := false, capturing := true, captured := [], captureStartT := true, captureGapT := false
            auto := s.calls.auto.map fun a => if a.step = .wru then { a with step := .capture } else a } })
    ∧ (∀ a, (emission s.line.txCase y).1 = false → y ≠ ⟨6, .figures, false⟩ → s.calls.auto = some a →
        let stepped (step : AutoStep) (ch : Option Chan) : Calls := { calls with auto := some ⟨a.message, step, ch⟩ }
        (a.step = .headerCr → a.channel = none → exec .characterEnd s = .next { s with
            line := { line with control := some ⟨2, .neutral, false⟩ }.asked .control, calls := stepped .headerLf none })
        ∧ (a.step = .trailerCr → a.channel = none → exec .characterEnd s = .next { s with
            line := { line with control := some ⟨2, .neutral, false⟩ }.asked .control, calls := stepped .trailerLf none })
        ∧ (∀ (r : Record) (b : ChainBlock) (bs : List ChainBlock), a.step = .headerLf → s.ch0 = none →
            s.store.find a.message = some r → r.chain = b :: bs → 1 ≤ b.fill → b.damaged = false → s.store.wrongOf b.block = [] →
            exec .characterEnd s = .next (({ s with line := line, calls := stepped .body (some .ch0) } : State).sends
              .ch0 a.message b))
        ∧ (a.step = .headerLf → s.ch0 ≠ none → s.ch1 ≠ none → inCall s → s.calls.capturing = false →
            exec .characterEnd s = .next (cleared (post (.autoSendFailed a.message .channel) { s with
              line := line, calls := calls
              store := { s.store with
                directory := changed s.store.directory a.message (attempted s.calls.attemptLimit) } })))
        ∧ (a.step = .trailerLf → a.channel = none → s.ident.latch ≠ none → exec .characterEnd s = .next { s with
            line := { line with abState := .pending, absorbed := 0 }, calls := stepped .trailerAnswer none })
        ∧ (a.step = .trailerLf → s.ident.latch = none → inCall s → s.calls.capturing = false →
            exec .characterEnd s = .next (cleared (post (.wruAnswered 0 0 true) { s with line := line, calls := calls })))))
  -- the end of the answer-back text
  ∧ (∀ (s : State) (k : TxChar) (a : AutoSend), s.line.txChar = some k → s.line.abState = .sending → s.line.abText = [] →
    s.calls.auto = some a →
    let idle : LineUnit := { s.line with txChar := none, abState := .none, absorbed := 0, abSent := 0 }
    let answered (l : LineUnit) (c : Calls) : State := post (.wruAnswered s.line.abSent s.line.absorbed false) { s with
      line := l, calls := c }
    (a.step = .headerAnswer → Leaves .characterEnd s (answered ({ idle with control := some ⟨1, .neutral, false⟩ }.asked .control)
        { s.calls with auto := some { a with step := .headerCr } }))
    ∧ (a.step = .headerAnswer → s.line.holder = none → s.line.requests = [] → s.kb.typeahead = [] → s.line.txEnable = true →
        s.line.pendingRate = none → s.dist.rowSent = ⟨false, false, false, false⟩ → s.store.slotLine = none → a.channel = none →
        exec .characterEnd s = .next (answered
          { idle with
            txChar := some ⟨1, s.line.stopLen, false⟩, control := some ⟨2, .neutral, false⟩, holder := some .control }
          { s.calls with
            auto := some { a with step := .headerLf }, idleT := if inCall s then some s.calls.idle else s.calls.idleT }))
    ∧ (a.step = .trailerAnswer → inCall s → s.calls.capturing = false → Leaves .characterEnd s (cleared (answered idle s.calls))))
  -- the reports of a channel that the sequencer started
  ∧ (∀ (ch : Chan) (s : State) (w : ChanWork) (r : Record) (before : List ChainBlock) (b : ChainBlock) (off : Nat)
      (copied : List Symbol) (y : Symbol) (k : TxChar),
    s.line.txChar = some k → s.kb.typeahead = [] → s.line.requests = [] → s.line.holder = some (.chan ch) →
    s.line.abState = .none → s.line.txEnable = true → s.line.pendingRate = none →
    s.dist.rowSent = ⟨false, false, false, false⟩ → s.store.slotLine = none →
    s.chan ch = some w → w.phase = .running → w.sinks = ⟨true, false, false, false⟩ → w.starter = .sequencer →
    s.store.find w.message = some r → r.state ≠ .opened → r.chain = before ++ [b] →
    w.position = (before.map (·.fill)).sum + off → off + 1 = b.fill →
    w.copy = some ⟨before.length, copied, true⟩ → copied[off]? = some y → (emission s.line.txCase y).1 = false →
    let code := (emission s.line.txCase y).2
    let line : LineUnit := { s.line with
      txChar := some ⟨code, s.line.stopLen, false⟩, txCase := caseAfter s.line.txUsos s.line.txCase code, holder := none }
    let calls : Calls := { s.calls with idleT := if inCall s then some s.calls.idle else s.calls.idleT }
    let done (f : Record → Record) : State := post (.channelDone ch w.message) (({ s with
      line := line, calls := calls
      store := { s.store with directory := changed s.store.directory w.message (fun q =>
        f { q with readers := q.readers - 1 }) } } : State).setChan ch none)
    let sent (q : Record) : Record := { q with
      delivery := .sent, remote := if s.calls.captured = [] then q.remote else s.calls.captured }
    let taken (q : Record) : Record := { q with delivery := .collected }
    (s.calls.auto = some ⟨w.message, .body, some ch⟩ → s.calls.state = .outgoing →
        exec .characterEnd s = .next (post (.autoSendDone w.message) { done sent with
          line := { line with control := some ⟨1, .neutral, false⟩, holder := some .control }
          calls := { calls with auto := some ⟨w.message, .trailerCr, none⟩ } }))
    ∧ (s.calls.auto = some ⟨w.message, .body, some ch⟩ → s.calls.state = .clearing →
        exec .characterEnd s = .next (post (.autoSendDone w.message) { done sent with
          calls := { calls with auto := none, phase := some .traffic } }))
    ∧ (∀ i j, s.calls.auto = none → s.calls.coll = some ⟨[], some (w.message, ch), i, j⟩ → s.calls.state = .incoming →
        exec .characterEnd s = .next (post (.collectionDone (i + 1) j) { done taken with
          calls := { calls with coll := none, phase := some .traffic } }))
    ∧ (∀ i j n rest q c cs, s.calls.auto = none → s.calls.coll = some ⟨n :: rest, some (w.message, ch), i, j⟩ →
        s.calls.state = .incoming → ch = .ch0 → n ≠ w.message → s.store.find n = some q →
        q.CollectedBy s.calls.captured = true → q.chain = c :: cs → 1 ≤ c.fill → c.damaged = false → s.store.wrongOf c.block = [] →
        exec .characterEnd s = .next (({ done taken with
          calls := { calls with coll := some ⟨rest, some (n, .ch0), i + 1, j⟩ }
          store := { (done taken).store with
            directory := changed (done taken).store.directory n (fun q => { q with delivery := .sending }) } } : State).sends
            .ch0 n c)))
  ∧ ∀ (ch : Chan) (p : Port) (channel : Byte) (s : State) (w : ChanWork), channel = (if ch = .ch0 then 0 else 1) →
    s.chan ch = some w → w.starter = .sequencer → (∀ why, w.phase ≠ .held why) → s.line.holder ≠ some (.chan ch) →
    .chan ch ∉ s.line.requests →
    let held : State := post (.channelHeld ch w.message w.position .command) (s.setChan ch (some { w with phase := .held .command }))
    let stopped : State := post (.channelStopped ch w.message w.position) ((s.setChan ch none).setStore { s.store with
      directory := changed s.store.directory w.message (fun q => { q with readers := q.readers - 1 }) })
    let failed (u : State) (cause : AutoCause) : State := cleared (post (.autoSendFailed w.message cause) (u.setStore { u.store with
      directory := changed u.store.directory w.message (attempted s.calls.attemptLimit) }))
    let kept (u : State) (i j : Nat) : State := post (.collectionDone i j) { u with
      store := { u.store with directory := changed u.store.directory w.message (fun q => { q with delivery := .held }) }
      calls := { s.calls with coll := none, phase := some .traffic } }
    (s.calls.auto = some ⟨w.message, .body, some ch⟩ → inCall s → s.calls.capturing = false →
        Brings (.hold p channel) s ((failed held .held).answer p ⟨0x41, .done, none, chanBytes ch held⟩)
        ∧ Brings (.stopChannel p channel) s ((failed stopped .stopped).answer p ⟨0x43, .done, none, chanBytes ch stopped⟩))
    ∧ (∀ rest i j, s.calls.auto = none → s.calls.coll = some ⟨rest, some (w.message, ch), i, j⟩ → s.calls.state = .incoming →
        Brings (.hold p channel) s ((kept held i j).answer p ⟨0x41, .done, none, chanBytes ch held⟩)
        ∧ (rest = [] → Brings (.stopChannel p channel) s ((kept stopped i j).answer p
            ⟨0x43, .done, none, chanBytes ch stopped⟩)))

/-- CONFIGURE ANSWERING stores each present setting, clamped where R166 clamps it, leaves the absent ones and answers the eight as stored,
followed by the session record; one bad mode or on/off value refuses it whole (R163, R165, R166; the record's layout, its absent fields
and how its marks read are log entries 18, 17 and 50). -/
def Obligations.AnsweringIsConfigured : Prop :=
  -- the session record
  (∀ c : Calls,
    let two (n : Nat) : List Byte := [byteOf (n / 256), byteOf n]
    let bit (n : Nat) (b : Bool) : Nat := if b then 2 ^ n else 0
    let mark (b : Bool) : Byte := if b then 1 else 0
    let chan (ch : Chan) : Byte := if ch = .ch0 then 0 else 1
    let current : Option (Nat × Chan) := match c.coll with | some k => k.current | none => none
    sessionBytes c = ([byteOf (bit 0 c.auto.isSome + bit 1 c.coll.isSome + bit 2 c.drain.isSome + bit 3 current.isSome),
        match c.state with | .idle => 0 | .incoming => 1 | .outgoing => 2 | .clearing => 3,
        match c.snapshot with | some .attended => 0 | some .unattended => 1 | none => 0xFF,
        match c.phase with
          | some .settle => 0 | some .capture => 1 | some .traffic => 2 | some .autoSend => 3 | some .collection => 4 | none => 0xFF,
        mark c.wruPending, mark c.capturing, byteOf c.captured.length] : List Byte)
      ++ c.captured.map Symbol.toByte ++ ([match c.status with | .none => 0 | .captured => 1 | .timeout => 2] : List Byte)
      ++ (match c.auto with
        | some a => two a.message ++ ([
          match a.step with
            | .wru => 0 | .capture => 1 | .headerAnswer => 2 | .headerCr => 2 | .headerLf => 2 | .body => 3
            | .trailerCr => 4 | .trailerLf => 4 | .trailerAnswer => 4,
          match a.channel with | some ch => chan ch | none => 0xFF] : List Byte)
        | none => [0, 0, 0xFF, 0xFF])
      ++ (match c.coll with | some k => byteOf k.remaining.length :: k.remaining.flatMap two | none => [0])
      ++ (match current with | some q => two q.1 ++ [chan q.2] | none => [0, 0, 0xFF])
      ++ (match c.coll with | some k => [byteOf k.collected, byteOf k.skipped] | none => [0xFF, 0xFF])
      ++ (match c.drain with | some n => two n | none => [0, 0])
      ++ [mark c.drainReq, mark c.settleT.isSome, mark c.captureStartT, mark c.captureGapT, mark c.idleT.isSome, mark c.breakGuardT,
        mark c.clearGuardT]) ∧
  ∀ (p : Port) (presence mode identify settle : Byte) (idle mutilation : Half) (attempts drain wru : Byte) (s : State),
    let c : Instr := .configureAnswering p presence mode identify settle idle mutilation attempts drain wru
    let bad := (presence.getLsbD 0 = true ∧ 1 < mode.toNat) ∨ (presence.getLsbD 1 = true ∧ 1 < identify.toNat)
      ∨ (presence.getLsbD 6 = true ∧ 1 < drain.toNat) ∨ (presence.getLsbD 7 = true ∧ 1 < wru.toNat)
    (bad → exec c s = .next (s.answer p ⟨0x76, .refused, some .range, []⟩))
    ∧ (¬ bad → ∃ v : Calls, v = { s.calls with
          mode := if presence.getLsbD 0 then (if mode = 0 then .attended else .unattended) else s.calls.mode
          identify := if presence.getLsbD 1 then identify == 1 else s.calls.identify
          settle := if presence.getLsbD 2 then min 5 settle.toNat else s.calls.settle
          idle := if presence.getLsbD 3 then max 10 (min 600 idle.toNat) else s.calls.idle
          mutLimit := if presence.getLsbD 4 then min 255 mutilation.toNat else s.calls.mutLimit
          attemptLimit := if presence.getLsbD 5 then max 1 (min 9 attempts.toNat) else s.calls.attemptLimit
          autoDrain := if presence.getLsbD 6 then drain == 1 else s.calls.autoDrain }
        ∧ ∃ w : Bool, w = (if presence.getLsbD 7 then wru == 1 else s.ident.wruResponse)
        ∧ exec c s = .next (({ s with calls := v, ident := { s.ident with wruResponse := w } } : State).answer p ⟨0x76, .done, none,
          [if v.mode = .attended then 0 else 1, boolOf v.identify, byteOf v.settle, byteOf (v.idle / 256), byteOf v.idle,
            byteOf (v.mutLimit / 256), byteOf v.mutLimit, byteOf v.attemptLimit, boolOf v.autoDrain, boolOf w]
            ++ sessionBytes v⟩))
end

