-- ==== Sys2Proof/Laws/Memory.lean ====
section
/-! SUPPORT. The block memory: a write keeps the canonical form and its bound, a read after a write gives the byte written, and a
write leaves every other address alone. -/

namespace Sys2Proof.Machine

theorem memory_reset_wf : Memory.wf State.reset.store.memory = true := rfl

/-- A lower bound may be lowered. -/
theorem wfFrom_mono {lo lo' : Nat} (h : lo' ≤ lo) : ∀ {m : List Host.Cell}, Memory.wfFrom lo m = true → Memory.wfFrom lo' m = true
  | [], _ => rfl
  | (k, b) :: t, w => by
    simp only [Memory.wfFrom, Bool.and_eq_true, decide_eq_true_eq] at w ⊢
    exact ⟨⟨by omega, w.1.2⟩, w.2⟩

/-- A write at or above the bound keeps the canonical form. -/
theorem write_wfFrom {lo : Nat} {m : List Host.Cell} (w : Memory.wfFrom lo m = true) {a : Nat} (h : lo ≤ a) (b : Byte) :
    Memory.wfFrom lo (Memory.write m a b) = true := by
  induction m generalizing lo with
  | nil =>
    simp only [Memory.write]
    split
    · rfl
    · next hb => simpa [Memory.wfFrom, h] using hb
  | cons e t ih =>
    obtain ⟨k, c⟩ := e
    simp only [Memory.wfFrom, Bool.and_eq_true, decide_eq_true_eq] at w
    simp only [Memory.write]
    split
    · next hlt =>
      split
      · simpa [Memory.wfFrom, w] using w.1.2
      · next hb =>
        have := w.1.2
        simp only [Memory.wfFrom, Bool.and_eq_true, decide_eq_true_eq]
        exact ⟨⟨h, by simpa using hb⟩, ⟨by omega, w.1.2⟩, w.2⟩
    · split
      · next hne heq =>
        subst heq
        split
        · exact wfFrom_mono (by omega) w.2
        · next hb =>
          simp only [Memory.wfFrom, Bool.and_eq_true, decide_eq_true_eq]
          exact ⟨⟨h, by simpa using hb⟩, w.2⟩
      · simp only [Memory.wfFrom, Bool.and_eq_true, decide_eq_true_eq]
        exact ⟨w.1, ih w.2 (by omega)⟩

/-- A write keeps the canonical form. -/
theorem write_wf {m : List Host.Cell} (w : Memory.wf m = true) (a : Nat) (b : Byte) : Memory.wf (Memory.write m a b) = true :=
  write_wfFrom w (Nat.zero_le a) b

/-- A run of writes keeps the canonical form. -/
theorem writeRun_wf (bs : List Byte) : ∀ {m : List Host.Cell} (_ : Memory.wf m = true) (a : Nat),
    Memory.wf (Memory.writeRun m a bs) = true := by
  induction bs with
  | nil => intro m w a; exact w
  | cons b bs ih => intro m w a; exact ih (write_wf w a b) (a + 1)

/-- A write adds no address but its own. -/
theorem write_within {m : List Host.Cell} {hi : Nat} (w : ∀ e ∈ m, e.1 < hi) {a : Nat} (h : a < hi) (b : Byte) :
    ∀ e ∈ Memory.write m a b, e.1 < hi := by
  induction m with
  | nil =>
    simp only [Memory.write]
    split
    · simp
    · simpa using h
  | cons e t ih =>
    obtain ⟨k, c⟩ := e
    simp only [List.mem_cons, forall_eq_or_imp] at w
    have tail := ih w.2
    simp only [Memory.write]
    split_ifs <;> (try simp only [List.mem_cons, forall_eq_or_imp]) <;> first | exact ⟨h, w⟩ | exact w | exact w.2 | exact ⟨h, w.2⟩ | exact ⟨w.1, tail⟩

/-- A run of writes adds no address but its own. -/
theorem writeRun_within (bs : List Byte) : ∀ {m : List Host.Cell} {hi : Nat} (_ : ∀ e ∈ m, e.1 < hi) (a : Nat)
    (_ : a + bs.length ≤ hi), ∀ e ∈ Memory.writeRun m a bs, e.1 < hi := by
  induction bs with
  | nil => intro m hi w a _; exact w
  | cons b bs ih =>
    intro m hi w a h
    simp only [List.length_cons] at h
    exact ih (write_within w (by omega) b) (a + 1) (by omega)

/-- Below every address listed, a memory reads its default. -/
theorem read_below {lo a : Nat} : ∀ {m : List Host.Cell}, Memory.wfFrom lo m = true → a < lo → Memory.read m a = memoryDefault
  | [], _, _ => rfl
  | (k, c) :: t, w, h => by
    simp only [Memory.wfFrom, Bool.and_eq_true, decide_eq_true_eq] at w
    simp only [Memory.read]
    rw [if_neg (by omega)]
    exact read_below w.2 (by omega)

/-- A read at the address of a write gives the byte written. -/
theorem read_write {lo : Nat} {m : List Host.Cell} (w : Memory.wfFrom lo m = true) (a : Nat) (b : Byte) :
    Memory.read (Memory.write m a b) a = b := by
  induction m generalizing lo with
  | nil =>
    simp only [Memory.write]
    split
    · next h => simp [Memory.read, h]
    · simp [Memory.read]
  | cons e t ih =>
    obtain ⟨k, c⟩ := e
    simp only [Memory.wfFrom, Bool.and_eq_true, decide_eq_true_eq] at w
    simp only [Memory.write]
    split
    · next hlt =>
      split
      · next hb =>
        simp only [Memory.read]
        rw [if_neg (by omega), read_below w.2 (by omega), hb]
      · simp [Memory.read]
    · split
      · next hne heq =>
        subst heq
        split
        · next hb => rw [read_below w.2 (by omega), hb]
        · simp [Memory.read]
      · next hne heq =>
        simp only [Memory.read]
        rw [if_neg (by omega)]
        exact ih w.2

/-- A read elsewhere is not touched by a write. -/
theorem read_write_ne {lo : Nat} {m : List Host.Cell} (w : Memory.wfFrom lo m = true) {a c : Nat} (b : Byte) (h : c ≠ a) :
    Memory.read (Memory.write m a b) c = Memory.read m c := by
  induction m generalizing lo with
  | nil =>
    simp only [Memory.write]
    split
    · rfl
    · simp only [Memory.read]
      rw [if_neg (by omega)]
  | cons e t ih =>
    obtain ⟨k, d⟩ := e
    simp only [Memory.wfFrom, Bool.and_eq_true, decide_eq_true_eq] at w
    simp only [Memory.write]
    split
    · split
      · rfl
      · simp only [Memory.read]
        rw [if_neg (show a ≠ c by omega)]
    · split
      · next hne heq =>
        subst heq
        split
        · simp only [Memory.read]
          rw [if_neg (show a ≠ c by omega)]
        · simp only [Memory.read]
          rw [if_neg (show a ≠ c by omega), if_neg (show a ≠ c by omega)]
      · simp only [Memory.read]
        split
        · rfl
        · exact ih w.2

/-- A read outside a run of writes is not touched. -/
theorem read_writeRun_out (bs : List Byte) : ∀ {m : List Host.Cell} (_ : Memory.wf m = true) (a c : Nat)
    (_ : c < a ∨ a + bs.length ≤ c), Memory.read (Memory.writeRun m a bs) c = Memory.read m c := by
  induction bs with
  | nil => intro m w a c _; rfl
  | cons b bs ih =>
    intro m w a c h
    simp only [List.length_cons] at h
    simp only [Memory.writeRun]
    rw [ih (write_wf w a b) (a + 1) c (by omega), read_write_ne w b (by omega)]

/-- A read inside a run of writes gives the byte of its place. -/
theorem read_writeRun_in (bs : List Byte) : ∀ {m : List Host.Cell} (_ : Memory.wf m = true) (a i : Nat) (h : i < bs.length),
    Memory.read (Memory.writeRun m a bs) (a + i) = bs[i] := by
  induction bs with
  | nil => intro m w a i h; simp at h
  | cons b bs ih =>
    intro m w a i h
    simp only [Memory.writeRun]
    cases i with
    | zero =>
      rw [read_writeRun_out bs (write_wf w a b) (a + 1) (a + 0) (by omega)]
      simpa using read_write w a b
    | succ i =>
      have := ih (write_wf w a b) (a + 1) i (by simpa using h)
      rw [show a + (i + 1) = a + 1 + i by omega, this]
      rfl

/-- A block is written whole: its 32 bytes read as written, every other address as before (R80). -/
theorem writeBlock_spec (t : Store) (b : Nat) (bytes : List Byte) (w : Memory.wf t.memory = true) (h : bytes.length ≤ Config.blockSize) :
    Memory.wf (t.writeBlock b bytes).memory = true ∧
    (∀ i (hi : i < bytes.length), Memory.read (t.writeBlock b bytes).memory (Config.blockSize * b + i) = bytes[i]) ∧
    (∀ a, a < Config.blockSize * b ∨ Config.blockSize * (b + 1) ≤ a →
      Memory.read (t.writeBlock b bytes).memory a = Memory.read t.memory a) := by
  refine ⟨writeRun_wf _ w _, fun i hi => ?_, fun a ha => read_writeRun_out _ w _ a ?_⟩
  · simp only [Store.writeBlock]
    rw [read_writeRun_in _ w _ i (by simp; omega)]
    simp [hi]
  · simp only [List.length_append, List.length_replicate]
    rw [Nat.mul_add] at ha
    omega

end Sys2Proof.Machine
end

