-- ==== Sys2Proof/Laws/State.lean ====
section
/-! SUPPORT. What each setter and each shared update of the state leaves in each field, true by unfolding; later proofs cite
these and unfold no record update. -/

namespace Sys2Proof.Machine

/-! ### State.setPins -/

@[simp] theorem State.setPins_pins (s : State) (v : Pins) : (s.setPins v).pins = v := rfl
@[simp] theorem State.setPins_line (s : State) (v : Pins) : (s.setPins v).line = s.line := rfl
@[simp] theorem State.setPins_kb (s : State) (v : Pins) : (s.setPins v).kb = s.kb := rfl
@[simp] theorem State.setPins_dist (s : State) (v : Pins) : (s.setPins v).dist = s.dist := rfl
@[simp] theorem State.setPins_store (s : State) (v : Pins) : (s.setPins v).store = s.store := rfl
@[simp] theorem State.setPins_ch0 (s : State) (v : Pins) : (s.setPins v).ch0 = s.ch0 := rfl
@[simp] theorem State.setPins_ch1 (s : State) (v : Pins) : (s.setPins v).ch1 = s.ch1 := rfl
@[simp] theorem State.setPins_printer (s : State) (v : Pins) : (s.setPins v).printer = s.printer := rfl
@[simp] theorem State.setPins_punch (s : State) (v : Pins) : (s.setPins v).punch = s.punch := rfl
@[simp] theorem State.setPins_ident (s : State) (v : Pins) : (s.setPins v).ident = s.ident := rfl
@[simp] theorem State.setPins_calls (s : State) (v : Pins) : (s.setPins v).calls = s.calls := rfl
@[simp] theorem State.setPins_sPort (s : State) (v : Pins) : (s.setPins v).sPort = s.sPort := rfl
@[simp] theorem State.setPins_xPort (s : State) (v : Pins) : (s.setPins v).xPort = s.xPort := rfl
@[simp] theorem State.setPins_freeCount (s : State) (v : Pins) : (s.setPins v).freeCount = s.freeCount := rfl
@[simp] theorem State.setPins_pending (s : State) (v : Pins) : (s.setPins v).pending = s.pending := rfl

/-! ### State.setLine -/

@[simp] theorem State.setLine_pins (s : State) (v : LineUnit) : (s.setLine v).pins = s.pins := rfl
@[simp] theorem State.setLine_line (s : State) (v : LineUnit) : (s.setLine v).line = v := rfl
@[simp] theorem State.setLine_kb (s : State) (v : LineUnit) : (s.setLine v).kb = s.kb := rfl
@[simp] theorem State.setLine_dist (s : State) (v : LineUnit) : (s.setLine v).dist = s.dist := rfl
@[simp] theorem State.setLine_store (s : State) (v : LineUnit) : (s.setLine v).store = s.store := rfl
@[simp] theorem State.setLine_ch0 (s : State) (v : LineUnit) : (s.setLine v).ch0 = s.ch0 := rfl
@[simp] theorem State.setLine_ch1 (s : State) (v : LineUnit) : (s.setLine v).ch1 = s.ch1 := rfl
@[simp] theorem State.setLine_printer (s : State) (v : LineUnit) : (s.setLine v).printer = s.printer := rfl
@[simp] theorem State.setLine_punch (s : State) (v : LineUnit) : (s.setLine v).punch = s.punch := rfl
@[simp] theorem State.setLine_ident (s : State) (v : LineUnit) : (s.setLine v).ident = s.ident := rfl
@[simp] theorem State.setLine_calls (s : State) (v : LineUnit) : (s.setLine v).calls = s.calls := rfl
@[simp] theorem State.setLine_sPort (s : State) (v : LineUnit) : (s.setLine v).sPort = s.sPort := rfl
@[simp] theorem State.setLine_xPort (s : State) (v : LineUnit) : (s.setLine v).xPort = s.xPort := rfl
@[simp] theorem State.setLine_freeCount (s : State) (v : LineUnit) : (s.setLine v).freeCount = s.freeCount := rfl
@[simp] theorem State.setLine_pending (s : State) (v : LineUnit) : (s.setLine v).pending = s.pending := rfl

/-! ### State.setKb -/

@[simp] theorem State.setKb_pins (s : State) (v : Keyboard) : (s.setKb v).pins = s.pins := rfl
@[simp] theorem State.setKb_line (s : State) (v : Keyboard) : (s.setKb v).line = s.line := rfl
@[simp] theorem State.setKb_kb (s : State) (v : Keyboard) : (s.setKb v).kb = v := rfl
@[simp] theorem State.setKb_dist (s : State) (v : Keyboard) : (s.setKb v).dist = s.dist := rfl
@[simp] theorem State.setKb_store (s : State) (v : Keyboard) : (s.setKb v).store = s.store := rfl
@[simp] theorem State.setKb_ch0 (s : State) (v : Keyboard) : (s.setKb v).ch0 = s.ch0 := rfl
@[simp] theorem State.setKb_ch1 (s : State) (v : Keyboard) : (s.setKb v).ch1 = s.ch1 := rfl
@[simp] theorem State.setKb_printer (s : State) (v : Keyboard) : (s.setKb v).printer = s.printer := rfl
@[simp] theorem State.setKb_punch (s : State) (v : Keyboard) : (s.setKb v).punch = s.punch := rfl
@[simp] theorem State.setKb_ident (s : State) (v : Keyboard) : (s.setKb v).ident = s.ident := rfl
@[simp] theorem State.setKb_calls (s : State) (v : Keyboard) : (s.setKb v).calls = s.calls := rfl
@[simp] theorem State.setKb_sPort (s : State) (v : Keyboard) : (s.setKb v).sPort = s.sPort := rfl
@[simp] theorem State.setKb_xPort (s : State) (v : Keyboard) : (s.setKb v).xPort = s.xPort := rfl
@[simp] theorem State.setKb_freeCount (s : State) (v : Keyboard) : (s.setKb v).freeCount = s.freeCount := rfl
@[simp] theorem State.setKb_pending (s : State) (v : Keyboard) : (s.setKb v).pending = s.pending := rfl

/-! ### State.setDist -/

@[simp] theorem State.setDist_pins (s : State) (v : Distributor) : (s.setDist v).pins = s.pins := rfl
@[simp] theorem State.setDist_line (s : State) (v : Distributor) : (s.setDist v).line = s.line := rfl
@[simp] theorem State.setDist_kb (s : State) (v : Distributor) : (s.setDist v).kb = s.kb := rfl
@[simp] theorem State.setDist_dist (s : State) (v : Distributor) : (s.setDist v).dist = v := rfl
@[simp] theorem State.setDist_store (s : State) (v : Distributor) : (s.setDist v).store = s.store := rfl
@[simp] theorem State.setDist_ch0 (s : State) (v : Distributor) : (s.setDist v).ch0 = s.ch0 := rfl
@[simp] theorem State.setDist_ch1 (s : State) (v : Distributor) : (s.setDist v).ch1 = s.ch1 := rfl
@[simp] theorem State.setDist_printer (s : State) (v : Distributor) : (s.setDist v).printer = s.printer := rfl
@[simp] theorem State.setDist_punch (s : State) (v : Distributor) : (s.setDist v).punch = s.punch := rfl
@[simp] theorem State.setDist_ident (s : State) (v : Distributor) : (s.setDist v).ident = s.ident := rfl
@[simp] theorem State.setDist_calls (s : State) (v : Distributor) : (s.setDist v).calls = s.calls := rfl
@[simp] theorem State.setDist_sPort (s : State) (v : Distributor) : (s.setDist v).sPort = s.sPort := rfl
@[simp] theorem State.setDist_xPort (s : State) (v : Distributor) : (s.setDist v).xPort = s.xPort := rfl
@[simp] theorem State.setDist_freeCount (s : State) (v : Distributor) : (s.setDist v).freeCount = s.freeCount := rfl
@[simp] theorem State.setDist_pending (s : State) (v : Distributor) : (s.setDist v).pending = s.pending := rfl

/-! ### State.setStore -/

@[simp] theorem State.setStore_pins (s : State) (v : Store) : (s.setStore v).pins = s.pins := rfl
@[simp] theorem State.setStore_line (s : State) (v : Store) : (s.setStore v).line = s.line := rfl
@[simp] theorem State.setStore_kb (s : State) (v : Store) : (s.setStore v).kb = s.kb := rfl
@[simp] theorem State.setStore_dist (s : State) (v : Store) : (s.setStore v).dist = s.dist := rfl
@[simp] theorem State.setStore_store (s : State) (v : Store) : (s.setStore v).store = v := rfl
@[simp] theorem State.setStore_ch0 (s : State) (v : Store) : (s.setStore v).ch0 = s.ch0 := rfl
@[simp] theorem State.setStore_ch1 (s : State) (v : Store) : (s.setStore v).ch1 = s.ch1 := rfl
@[simp] theorem State.setStore_printer (s : State) (v : Store) : (s.setStore v).printer = s.printer := rfl
@[simp] theorem State.setStore_punch (s : State) (v : Store) : (s.setStore v).punch = s.punch := rfl
@[simp] theorem State.setStore_ident (s : State) (v : Store) : (s.setStore v).ident = s.ident := rfl
@[simp] theorem State.setStore_calls (s : State) (v : Store) : (s.setStore v).calls = s.calls := rfl
@[simp] theorem State.setStore_sPort (s : State) (v : Store) : (s.setStore v).sPort = s.sPort := rfl
@[simp] theorem State.setStore_xPort (s : State) (v : Store) : (s.setStore v).xPort = s.xPort := rfl
@[simp] theorem State.setStore_freeCount (s : State) (v : Store) : (s.setStore v).freeCount = s.freeCount := rfl
@[simp] theorem State.setStore_pending (s : State) (v : Store) : (s.setStore v).pending = s.pending := rfl

/-! ### State.setPrinter -/

@[simp] theorem State.setPrinter_pins (s : State) (v : Printer) : (s.setPrinter v).pins = s.pins := rfl
@[simp] theorem State.setPrinter_line (s : State) (v : Printer) : (s.setPrinter v).line = s.line := rfl
@[simp] theorem State.setPrinter_kb (s : State) (v : Printer) : (s.setPrinter v).kb = s.kb := rfl
@[simp] theorem State.setPrinter_dist (s : State) (v : Printer) : (s.setPrinter v).dist = s.dist := rfl
@[simp] theorem State.setPrinter_store (s : State) (v : Printer) : (s.setPrinter v).store = s.store := rfl
@[simp] theorem State.setPrinter_ch0 (s : State) (v : Printer) : (s.setPrinter v).ch0 = s.ch0 := rfl
@[simp] theorem State.setPrinter_ch1 (s : State) (v : Printer) : (s.setPrinter v).ch1 = s.ch1 := rfl
@[simp] theorem State.setPrinter_printer (s : State) (v : Printer) : (s.setPrinter v).printer = v := rfl
@[simp] theorem State.setPrinter_punch (s : State) (v : Printer) : (s.setPrinter v).punch = s.punch := rfl
@[simp] theorem State.setPrinter_ident (s : State) (v : Printer) : (s.setPrinter v).ident = s.ident := rfl
@[simp] theorem State.setPrinter_calls (s : State) (v : Printer) : (s.setPrinter v).calls = s.calls := rfl
@[simp] theorem State.setPrinter_sPort (s : State) (v : Printer) : (s.setPrinter v).sPort = s.sPort := rfl
@[simp] theorem State.setPrinter_xPort (s : State) (v : Printer) : (s.setPrinter v).xPort = s.xPort := rfl
@[simp] theorem State.setPrinter_freeCount (s : State) (v : Printer) : (s.setPrinter v).freeCount = s.freeCount := rfl
@[simp] theorem State.setPrinter_pending (s : State) (v : Printer) : (s.setPrinter v).pending = s.pending := rfl

/-! ### State.setPunch -/

@[simp] theorem State.setPunch_pins (s : State) (v : Punch) : (s.setPunch v).pins = s.pins := rfl
@[simp] theorem State.setPunch_line (s : State) (v : Punch) : (s.setPunch v).line = s.line := rfl
@[simp] theorem State.setPunch_kb (s : State) (v : Punch) : (s.setPunch v).kb = s.kb := rfl
@[simp] theorem State.setPunch_dist (s : State) (v : Punch) : (s.setPunch v).dist = s.dist := rfl
@[simp] theorem State.setPunch_store (s : State) (v : Punch) : (s.setPunch v).store = s.store := rfl
@[simp] theorem State.setPunch_ch0 (s : State) (v : Punch) : (s.setPunch v).ch0 = s.ch0 := rfl
@[simp] theorem State.setPunch_ch1 (s : State) (v : Punch) : (s.setPunch v).ch1 = s.ch1 := rfl
@[simp] theorem State.setPunch_printer (s : State) (v : Punch) : (s.setPunch v).printer = s.printer := rfl
@[simp] theorem State.setPunch_punch (s : State) (v : Punch) : (s.setPunch v).punch = v := rfl
@[simp] theorem State.setPunch_ident (s : State) (v : Punch) : (s.setPunch v).ident = s.ident := rfl
@[simp] theorem State.setPunch_calls (s : State) (v : Punch) : (s.setPunch v).calls = s.calls := rfl
@[simp] theorem State.setPunch_sPort (s : State) (v : Punch) : (s.setPunch v).sPort = s.sPort := rfl
@[simp] theorem State.setPunch_xPort (s : State) (v : Punch) : (s.setPunch v).xPort = s.xPort := rfl
@[simp] theorem State.setPunch_freeCount (s : State) (v : Punch) : (s.setPunch v).freeCount = s.freeCount := rfl
@[simp] theorem State.setPunch_pending (s : State) (v : Punch) : (s.setPunch v).pending = s.pending := rfl

/-! ### State.setIdent -/

@[simp] theorem State.setIdent_pins (s : State) (v : Identity) : (s.setIdent v).pins = s.pins := rfl
@[simp] theorem State.setIdent_line (s : State) (v : Identity) : (s.setIdent v).line = s.line := rfl
@[simp] theorem State.setIdent_kb (s : State) (v : Identity) : (s.setIdent v).kb = s.kb := rfl
@[simp] theorem State.setIdent_dist (s : State) (v : Identity) : (s.setIdent v).dist = s.dist := rfl
@[simp] theorem State.setIdent_store (s : State) (v : Identity) : (s.setIdent v).store = s.store := rfl
@[simp] theorem State.setIdent_ch0 (s : State) (v : Identity) : (s.setIdent v).ch0 = s.ch0 := rfl
@[simp] theorem State.setIdent_ch1 (s : State) (v : Identity) : (s.setIdent v).ch1 = s.ch1 := rfl
@[simp] theorem State.setIdent_printer (s : State) (v : Identity) : (s.setIdent v).printer = s.printer := rfl
@[simp] theorem State.setIdent_punch (s : State) (v : Identity) : (s.setIdent v).punch = s.punch := rfl
@[simp] theorem State.setIdent_ident (s : State) (v : Identity) : (s.setIdent v).ident = v := rfl
@[simp] theorem State.setIdent_calls (s : State) (v : Identity) : (s.setIdent v).calls = s.calls := rfl
@[simp] theorem State.setIdent_sPort (s : State) (v : Identity) : (s.setIdent v).sPort = s.sPort := rfl
@[simp] theorem State.setIdent_xPort (s : State) (v : Identity) : (s.setIdent v).xPort = s.xPort := rfl
@[simp] theorem State.setIdent_freeCount (s : State) (v : Identity) : (s.setIdent v).freeCount = s.freeCount := rfl
@[simp] theorem State.setIdent_pending (s : State) (v : Identity) : (s.setIdent v).pending = s.pending := rfl

/-! ### State.setCalls -/

@[simp] theorem State.setCalls_pins (s : State) (v : Calls) : (s.setCalls v).pins = s.pins := rfl
@[simp] theorem State.setCalls_line (s : State) (v : Calls) : (s.setCalls v).line = s.line := rfl
@[simp] theorem State.setCalls_kb (s : State) (v : Calls) : (s.setCalls v).kb = s.kb := rfl
@[simp] theorem State.setCalls_dist (s : State) (v : Calls) : (s.setCalls v).dist = s.dist := rfl
@[simp] theorem State.setCalls_store (s : State) (v : Calls) : (s.setCalls v).store = s.store := rfl
@[simp] theorem State.setCalls_ch0 (s : State) (v : Calls) : (s.setCalls v).ch0 = s.ch0 := rfl
@[simp] theorem State.setCalls_ch1 (s : State) (v : Calls) : (s.setCalls v).ch1 = s.ch1 := rfl
@[simp] theorem State.setCalls_printer (s : State) (v : Calls) : (s.setCalls v).printer = s.printer := rfl
@[simp] theorem State.setCalls_punch (s : State) (v : Calls) : (s.setCalls v).punch = s.punch := rfl
@[simp] theorem State.setCalls_ident (s : State) (v : Calls) : (s.setCalls v).ident = s.ident := rfl
@[simp] theorem State.setCalls_calls (s : State) (v : Calls) : (s.setCalls v).calls = v := rfl
@[simp] theorem State.setCalls_sPort (s : State) (v : Calls) : (s.setCalls v).sPort = s.sPort := rfl
@[simp] theorem State.setCalls_xPort (s : State) (v : Calls) : (s.setCalls v).xPort = s.xPort := rfl
@[simp] theorem State.setCalls_freeCount (s : State) (v : Calls) : (s.setCalls v).freeCount = s.freeCount := rfl
@[simp] theorem State.setCalls_pending (s : State) (v : Calls) : (s.setCalls v).pending = s.pending := rfl

/-! ### State.setFree -/

@[simp] theorem State.setFree_pins (s : State) (v : Nat) : (s.setFree v).pins = s.pins := rfl
@[simp] theorem State.setFree_line (s : State) (v : Nat) : (s.setFree v).line = s.line := rfl
@[simp] theorem State.setFree_kb (s : State) (v : Nat) : (s.setFree v).kb = s.kb := rfl
@[simp] theorem State.setFree_dist (s : State) (v : Nat) : (s.setFree v).dist = s.dist := rfl
@[simp] theorem State.setFree_store (s : State) (v : Nat) : (s.setFree v).store = s.store := rfl
@[simp] theorem State.setFree_ch0 (s : State) (v : Nat) : (s.setFree v).ch0 = s.ch0 := rfl
@[simp] theorem State.setFree_ch1 (s : State) (v : Nat) : (s.setFree v).ch1 = s.ch1 := rfl
@[simp] theorem State.setFree_printer (s : State) (v : Nat) : (s.setFree v).printer = s.printer := rfl
@[simp] theorem State.setFree_punch (s : State) (v : Nat) : (s.setFree v).punch = s.punch := rfl
@[simp] theorem State.setFree_ident (s : State) (v : Nat) : (s.setFree v).ident = s.ident := rfl
@[simp] theorem State.setFree_calls (s : State) (v : Nat) : (s.setFree v).calls = s.calls := rfl
@[simp] theorem State.setFree_sPort (s : State) (v : Nat) : (s.setFree v).sPort = s.sPort := rfl
@[simp] theorem State.setFree_xPort (s : State) (v : Nat) : (s.setFree v).xPort = s.xPort := rfl
@[simp] theorem State.setFree_freeCount (s : State) (v : Nat) : (s.setFree v).freeCount = v := rfl
@[simp] theorem State.setFree_pending (s : State) (v : Nat) : (s.setFree v).pending = s.pending := rfl

/-! ### State.setPending -/

@[simp] theorem State.setPending_pins (s : State) (v : List Instr) : (s.setPending v).pins = s.pins := rfl
@[simp] theorem State.setPending_line (s : State) (v : List Instr) : (s.setPending v).line = s.line := rfl
@[simp] theorem State.setPending_kb (s : State) (v : List Instr) : (s.setPending v).kb = s.kb := rfl
@[simp] theorem State.setPending_dist (s : State) (v : List Instr) : (s.setPending v).dist = s.dist := rfl
@[simp] theorem State.setPending_store (s : State) (v : List Instr) : (s.setPending v).store = s.store := rfl
@[simp] theorem State.setPending_ch0 (s : State) (v : List Instr) : (s.setPending v).ch0 = s.ch0 := rfl
@[simp] theorem State.setPending_ch1 (s : State) (v : List Instr) : (s.setPending v).ch1 = s.ch1 := rfl
@[simp] theorem State.setPending_printer (s : State) (v : List Instr) : (s.setPending v).printer = s.printer := rfl
@[simp] theorem State.setPending_punch (s : State) (v : List Instr) : (s.setPending v).punch = s.punch := rfl
@[simp] theorem State.setPending_ident (s : State) (v : List Instr) : (s.setPending v).ident = s.ident := rfl
@[simp] theorem State.setPending_calls (s : State) (v : List Instr) : (s.setPending v).calls = s.calls := rfl
@[simp] theorem State.setPending_sPort (s : State) (v : List Instr) : (s.setPending v).sPort = s.sPort := rfl
@[simp] theorem State.setPending_xPort (s : State) (v : List Instr) : (s.setPending v).xPort = s.xPort := rfl
@[simp] theorem State.setPending_freeCount (s : State) (v : List Instr) : (s.setPending v).freeCount = s.freeCount := rfl
@[simp] theorem State.setPending_pending (s : State) (v : List Instr) : (s.setPending v).pending = v := rfl

/-! ### State.setPort, State.port -/

@[simp] theorem State.setPort_pins (s : State) (p : Port) (v : PortState) : (s.setPort p v).pins = s.pins := by
  cases p <;> rfl
@[simp] theorem State.setPort_line (s : State) (p : Port) (v : PortState) : (s.setPort p v).line = s.line := by
  cases p <;> rfl
@[simp] theorem State.setPort_kb (s : State) (p : Port) (v : PortState) : (s.setPort p v).kb = s.kb := by
  cases p <;> rfl
@[simp] theorem State.setPort_dist (s : State) (p : Port) (v : PortState) : (s.setPort p v).dist = s.dist := by
  cases p <;> rfl
@[simp] theorem State.setPort_store (s : State) (p : Port) (v : PortState) : (s.setPort p v).store = s.store := by
  cases p <;> rfl
@[simp] theorem State.setPort_ch0 (s : State) (p : Port) (v : PortState) : (s.setPort p v).ch0 = s.ch0 := by
  cases p <;> rfl
@[simp] theorem State.setPort_ch1 (s : State) (p : Port) (v : PortState) : (s.setPort p v).ch1 = s.ch1 := by
  cases p <;> rfl
@[simp] theorem State.setPort_printer (s : State) (p : Port) (v : PortState) : (s.setPort p v).printer = s.printer := by
  cases p <;> rfl
@[simp] theorem State.setPort_punch (s : State) (p : Port) (v : PortState) : (s.setPort p v).punch = s.punch := by
  cases p <;> rfl
@[simp] theorem State.setPort_ident (s : State) (p : Port) (v : PortState) : (s.setPort p v).ident = s.ident := by
  cases p <;> rfl
@[simp] theorem State.setPort_calls (s : State) (p : Port) (v : PortState) : (s.setPort p v).calls = s.calls := by
  cases p <;> rfl
@[simp] theorem State.setPort_freeCount (s : State) (p : Port) (v : PortState) : (s.setPort p v).freeCount = s.freeCount := by
  cases p <;> rfl
@[simp] theorem State.setPort_pending (s : State) (p : Port) (v : PortState) : (s.setPort p v).pending = s.pending := by
  cases p <;> rfl

@[simp] theorem State.setPort_port (s : State) (p : Port) (v : PortState) : (s.setPort p v).port p = v := by cases p <;> rfl

/-- The other port is not touched. -/
theorem State.setPort_port_ne (s : State) (p q : Port) (v : PortState) (h : q ≠ p) : (s.setPort p v).port q = s.port q := by
  cases p <;> cases q <;> first | rfl | exact absurd rfl h

@[simp] theorem State.setPort_setPort (s : State) (p : Port) (v w : PortState) : (s.setPort p v).setPort p w = s.setPort p w := by
  cases p <;> rfl

@[simp] theorem State.setPort_self (s : State) (p : Port) : s.setPort p (s.port p) = s := by cases p <;> rfl

/-! ### State.setChan, State.chan -/

@[simp] theorem State.setChan_pins (s : State) (c : Chan) (w : Option ChanWork) : (s.setChan c w).pins = s.pins := by
  cases c <;> rfl
@[simp] theorem State.setChan_line (s : State) (c : Chan) (w : Option ChanWork) : (s.setChan c w).line = s.line := by
  cases c <;> rfl
@[simp] theorem State.setChan_kb (s : State) (c : Chan) (w : Option ChanWork) : (s.setChan c w).kb = s.kb := by
  cases c <;> rfl
@[simp] theorem State.setChan_dist (s : State) (c : Chan) (w : Option ChanWork) : (s.setChan c w).dist = s.dist := by
  cases c <;> rfl
@[simp] theorem State.setChan_store (s : State) (c : Chan) (w : Option ChanWork) : (s.setChan c w).store = s.store := by
  cases c <;> rfl
@[simp] theorem State.setChan_printer (s : State) (c : Chan) (w : Option ChanWork) : (s.setChan c w).printer = s.printer := by
  cases c <;> rfl
@[simp] theorem State.setChan_punch (s : State) (c : Chan) (w : Option ChanWork) : (s.setChan c w).punch = s.punch := by
  cases c <;> rfl
@[simp] theorem State.setChan_ident (s : State) (c : Chan) (w : Option ChanWork) : (s.setChan c w).ident = s.ident := by
  cases c <;> rfl
@[simp] theorem State.setChan_calls (s : State) (c : Chan) (w : Option ChanWork) : (s.setChan c w).calls = s.calls := by
  cases c <;> rfl
@[simp] theorem State.setChan_sPort (s : State) (c : Chan) (w : Option ChanWork) : (s.setChan c w).sPort = s.sPort := by
  cases c <;> rfl
@[simp] theorem State.setChan_xPort (s : State) (c : Chan) (w : Option ChanWork) : (s.setChan c w).xPort = s.xPort := by
  cases c <;> rfl
@[simp] theorem State.setChan_freeCount (s : State) (c : Chan) (w : Option ChanWork) : (s.setChan c w).freeCount = s.freeCount := by
  cases c <;> rfl
@[simp] theorem State.setChan_pending (s : State) (c : Chan) (w : Option ChanWork) : (s.setChan c w).pending = s.pending := by
  cases c <;> rfl

@[simp] theorem State.setChan_chan (s : State) (c : Chan) (w : Option ChanWork) : (s.setChan c w).chan c = w := by
  cases c <;> rfl

/-- The other channel is not touched. -/
theorem State.setChan_chan_ne (s : State) (c d : Chan) (w : Option ChanWork) (h : d ≠ c) :
    (s.setChan c w).chan d = s.chan d := by
  cases c <;> cases d <;> first | rfl | exact absurd rfl h

@[simp] theorem State.setChan_setChan (s : State) (c : Chan) (v w : Option ChanWork) :
    (s.setChan c v).setChan c w = s.setChan c w := by cases c <;> rfl

@[simp] theorem State.setChan_self (s : State) (c : Chan) : s.setChan c (s.chan c) = s := by cases c <;> rfl

/-! ### post -/

@[simp] theorem post_pins (e : Event) (s : State) : (post e s).pins = s.pins := rfl
@[simp] theorem post_line (e : Event) (s : State) : (post e s).line = s.line := rfl
@[simp] theorem post_kb (e : Event) (s : State) : (post e s).kb = s.kb := rfl
@[simp] theorem post_dist (e : Event) (s : State) : (post e s).dist = s.dist := rfl
@[simp] theorem post_store (e : Event) (s : State) : (post e s).store = s.store := rfl
@[simp] theorem post_ch0 (e : Event) (s : State) : (post e s).ch0 = s.ch0 := rfl
@[simp] theorem post_ch1 (e : Event) (s : State) : (post e s).ch1 = s.ch1 := rfl
@[simp] theorem post_printer (e : Event) (s : State) : (post e s).printer = s.printer := rfl
@[simp] theorem post_punch (e : Event) (s : State) : (post e s).punch = s.punch := rfl
@[simp] theorem post_ident (e : Event) (s : State) : (post e s).ident = s.ident := rfl
@[simp] theorem post_calls (e : Event) (s : State) : (post e s).calls = s.calls := rfl
@[simp] theorem post_freeCount (e : Event) (s : State) : (post e s).freeCount = s.freeCount := rfl
@[simp] theorem post_pending (e : Event) (s : State) : (post e s).pending = s.pending := rfl

/-! ### setFlag -/

@[simp] theorem setFlag_pins (g : Flag) (s : State) : (setFlag g s).pins = s.pins := rfl
@[simp] theorem setFlag_line (g : Flag) (s : State) : (setFlag g s).line = s.line := rfl
@[simp] theorem setFlag_kb (g : Flag) (s : State) : (setFlag g s).kb = s.kb := rfl
@[simp] theorem setFlag_dist (g : Flag) (s : State) : (setFlag g s).dist = s.dist := rfl
@[simp] theorem setFlag_store (g : Flag) (s : State) : (setFlag g s).store = s.store := rfl
@[simp] theorem setFlag_ch0 (g : Flag) (s : State) : (setFlag g s).ch0 = s.ch0 := rfl
@[simp] theorem setFlag_ch1 (g : Flag) (s : State) : (setFlag g s).ch1 = s.ch1 := rfl
@[simp] theorem setFlag_printer (g : Flag) (s : State) : (setFlag g s).printer = s.printer := rfl
@[simp] theorem setFlag_punch (g : Flag) (s : State) : (setFlag g s).punch = s.punch := rfl
@[simp] theorem setFlag_ident (g : Flag) (s : State) : (setFlag g s).ident = s.ident := rfl
@[simp] theorem setFlag_calls (g : Flag) (s : State) : (setFlag g s).calls = s.calls := rfl
@[simp] theorem setFlag_freeCount (g : Flag) (s : State) : (setFlag g s).freeCount = s.freeCount := rfl
@[simp] theorem setFlag_pending (g : Flag) (s : State) : (setFlag g s).pending = s.pending := rfl

/-! ### request -/

@[simp] theorem request_pins (r : Requester) (s : State) : (request r s).pins = s.pins := rfl
@[simp] theorem request_kb (r : Requester) (s : State) : (request r s).kb = s.kb := rfl
@[simp] theorem request_dist (r : Requester) (s : State) : (request r s).dist = s.dist := rfl
@[simp] theorem request_store (r : Requester) (s : State) : (request r s).store = s.store := rfl
@[simp] theorem request_ch0 (r : Requester) (s : State) : (request r s).ch0 = s.ch0 := rfl
@[simp] theorem request_ch1 (r : Requester) (s : State) : (request r s).ch1 = s.ch1 := rfl
@[simp] theorem request_printer (r : Requester) (s : State) : (request r s).printer = s.printer := rfl
@[simp] theorem request_punch (r : Requester) (s : State) : (request r s).punch = s.punch := rfl
@[simp] theorem request_ident (r : Requester) (s : State) : (request r s).ident = s.ident := rfl
@[simp] theorem request_calls (r : Requester) (s : State) : (request r s).calls = s.calls := rfl
@[simp] theorem request_sPort (r : Requester) (s : State) : (request r s).sPort = s.sPort := rfl
@[simp] theorem request_xPort (r : Requester) (s : State) : (request r s).xPort = s.xPort := rfl
@[simp] theorem request_freeCount (r : Requester) (s : State) : (request r s).freeCount = s.freeCount := rfl
@[simp] theorem request_pending (r : Requester) (s : State) : (request r s).pending = s.pending := rfl

/-! ### leave -/

@[simp] theorem leave_pins (r : Requester) (s : State) : (leave r s).pins = s.pins := rfl
@[simp] theorem leave_kb (r : Requester) (s : State) : (leave r s).kb = s.kb := rfl
@[simp] theorem leave_dist (r : Requester) (s : State) : (leave r s).dist = s.dist := rfl
@[simp] theorem leave_store (r : Requester) (s : State) : (leave r s).store = s.store := rfl
@[simp] theorem leave_ch0 (r : Requester) (s : State) : (leave r s).ch0 = s.ch0 := rfl
@[simp] theorem leave_ch1 (r : Requester) (s : State) : (leave r s).ch1 = s.ch1 := rfl
@[simp] theorem leave_printer (r : Requester) (s : State) : (leave r s).printer = s.printer := rfl
@[simp] theorem leave_punch (r : Requester) (s : State) : (leave r s).punch = s.punch := rfl
@[simp] theorem leave_ident (r : Requester) (s : State) : (leave r s).ident = s.ident := rfl
@[simp] theorem leave_calls (r : Requester) (s : State) : (leave r s).calls = s.calls := rfl
@[simp] theorem leave_sPort (r : Requester) (s : State) : (leave r s).sPort = s.sPort := rfl
@[simp] theorem leave_xPort (r : Requester) (s : State) : (leave r s).xPort = s.xPort := rfl
@[simp] theorem leave_freeCount (r : Requester) (s : State) : (leave r s).freeCount = s.freeCount := rfl
@[simp] theorem leave_pending (r : Requester) (s : State) : (leave r s).pending = s.pending := rfl

/-! ### ringBell -/

@[simp] theorem ringBell_pins (s : State) : (ringBell s).pins = s.pins := rfl
@[simp] theorem ringBell_line (s : State) : (ringBell s).line = s.line := rfl
@[simp] theorem ringBell_kb (s : State) : (ringBell s).kb = s.kb := rfl
@[simp] theorem ringBell_dist (s : State) : (ringBell s).dist = s.dist := rfl
@[simp] theorem ringBell_store (s : State) : (ringBell s).store = s.store := rfl
@[simp] theorem ringBell_ch0 (s : State) : (ringBell s).ch0 = s.ch0 := rfl
@[simp] theorem ringBell_ch1 (s : State) : (ringBell s).ch1 = s.ch1 := rfl
@[simp] theorem ringBell_punch (s : State) : (ringBell s).punch = s.punch := rfl
@[simp] theorem ringBell_ident (s : State) : (ringBell s).ident = s.ident := rfl
@[simp] theorem ringBell_calls (s : State) : (ringBell s).calls = s.calls := rfl
@[simp] theorem ringBell_sPort (s : State) : (ringBell s).sPort = s.sPort := rfl
@[simp] theorem ringBell_xPort (s : State) : (ringBell s).xPort = s.xPort := rfl
@[simp] theorem ringBell_freeCount (s : State) : (ringBell s).freeCount = s.freeCount := rfl
@[simp] theorem ringBell_pending (s : State) : (ringBell s).pending = s.pending := rfl

/-! ### updateMsg -/

@[simp] theorem updateMsg_pins (n : Nat) (f : Record → Record) (s : State) : (updateMsg n f s).pins = s.pins := rfl
@[simp] theorem updateMsg_line (n : Nat) (f : Record → Record) (s : State) : (updateMsg n f s).line = s.line := rfl
@[simp] theorem updateMsg_kb (n : Nat) (f : Record → Record) (s : State) : (updateMsg n f s).kb = s.kb := rfl
@[simp] theorem updateMsg_dist (n : Nat) (f : Record → Record) (s : State) : (updateMsg n f s).dist = s.dist := rfl
@[simp] theorem updateMsg_ch0 (n : Nat) (f : Record → Record) (s : State) : (updateMsg n f s).ch0 = s.ch0 := rfl
@[simp] theorem updateMsg_ch1 (n : Nat) (f : Record → Record) (s : State) : (updateMsg n f s).ch1 = s.ch1 := rfl
@[simp] theorem updateMsg_printer (n : Nat) (f : Record → Record) (s : State) : (updateMsg n f s).printer = s.printer := rfl
@[simp] theorem updateMsg_punch (n : Nat) (f : Record → Record) (s : State) : (updateMsg n f s).punch = s.punch := rfl
@[simp] theorem updateMsg_ident (n : Nat) (f : Record → Record) (s : State) : (updateMsg n f s).ident = s.ident := rfl
@[simp] theorem updateMsg_calls (n : Nat) (f : Record → Record) (s : State) : (updateMsg n f s).calls = s.calls := rfl
@[simp] theorem updateMsg_sPort (n : Nat) (f : Record → Record) (s : State) : (updateMsg n f s).sPort = s.sPort := rfl
@[simp] theorem updateMsg_xPort (n : Nat) (f : Record → Record) (s : State) : (updateMsg n f s).xPort = s.xPort := rfl
@[simp] theorem updateMsg_freeCount (n : Nat) (f : Record → Record) (s : State) : (updateMsg n f s).freeCount = s.freeCount := rfl
@[simp] theorem updateMsg_pending (n : Nat) (f : Record → Record) (s : State) : (updateMsg n f s).pending = s.pending := rfl

/-! ### State.answer -/

@[simp] theorem State.answer_pins (s : State) (p : Port) (a : Answer) : (s.answer p a).pins = s.pins := by
  cases p <;> rfl
@[simp] theorem State.answer_line (s : State) (p : Port) (a : Answer) : (s.answer p a).line = s.line := by
  cases p <;> rfl
@[simp] theorem State.answer_kb (s : State) (p : Port) (a : Answer) : (s.answer p a).kb = s.kb := by
  cases p <;> rfl
@[simp] theorem State.answer_dist (s : State) (p : Port) (a : Answer) : (s.answer p a).dist = s.dist := by
  cases p <;> rfl
@[simp] theorem State.answer_store (s : State) (p : Port) (a : Answer) : (s.answer p a).store = s.store := by
  cases p <;> rfl
@[simp] theorem State.answer_ch0 (s : State) (p : Port) (a : Answer) : (s.answer p a).ch0 = s.ch0 := by
  cases p <;> rfl
@[simp] theorem State.answer_ch1 (s : State) (p : Port) (a : Answer) : (s.answer p a).ch1 = s.ch1 := by
  cases p <;> rfl
@[simp] theorem State.answer_printer (s : State) (p : Port) (a : Answer) : (s.answer p a).printer = s.printer := by
  cases p <;> rfl
@[simp] theorem State.answer_punch (s : State) (p : Port) (a : Answer) : (s.answer p a).punch = s.punch := by
  cases p <;> rfl
@[simp] theorem State.answer_ident (s : State) (p : Port) (a : Answer) : (s.answer p a).ident = s.ident := by
  cases p <;> rfl
@[simp] theorem State.answer_calls (s : State) (p : Port) (a : Answer) : (s.answer p a).calls = s.calls := by
  cases p <;> rfl
@[simp] theorem State.answer_freeCount (s : State) (p : Port) (a : Answer) : (s.answer p a).freeCount = s.freeCount := by
  cases p <;> rfl
@[simp] theorem State.answer_pending (s : State) (p : Port) (a : Answer) : (s.answer p a).pending = s.pending := by
  cases p <;> rfl

@[simp] theorem State.answer_port (s : State) (p : Port) (a : Answer) :
    (s.answer p a).port p = { s.port p with holder := some a } := by cases p <;> rfl

/-- The other port is not touched by an answer. -/
theorem State.answer_port_ne (s : State) (p q : Port) (a : Answer) (h : q ≠ p) : (s.answer p a).port q = s.port q := by
  cases p <;> cases q <;> first | rfl | exact absurd rfl h

/-! ### Posting a list of events -/

@[simp] theorem postAll_pins (es : List Event) (s : State) : (postAll es s).pins = s.pins := by
  induction es generalizing s with
  | nil => rfl
  | cons e es ih => exact ih (post e s)
@[simp] theorem postAll_line (es : List Event) (s : State) : (postAll es s).line = s.line := by
  induction es generalizing s with
  | nil => rfl
  | cons e es ih => exact ih (post e s)
@[simp] theorem postAll_kb (es : List Event) (s : State) : (postAll es s).kb = s.kb := by
  induction es generalizing s with
  | nil => rfl
  | cons e es ih => exact ih (post e s)
@[simp] theorem postAll_dist (es : List Event) (s : State) : (postAll es s).dist = s.dist := by
  induction es generalizing s with
  | nil => rfl
  | cons e es ih => exact ih (post e s)
@[simp] theorem postAll_store (es : List Event) (s : State) : (postAll es s).store = s.store := by
  induction es generalizing s with
  | nil => rfl
  | cons e es ih => exact ih (post e s)
@[simp] theorem postAll_ch0 (es : List Event) (s : State) : (postAll es s).ch0 = s.ch0 := by
  induction es generalizing s with
  | nil => rfl
  | cons e es ih => exact ih (post e s)
@[simp] theorem postAll_ch1 (es : List Event) (s : State) : (postAll es s).ch1 = s.ch1 := by
  induction es generalizing s with
  | nil => rfl
  | cons e es ih => exact ih (post e s)
@[simp] theorem postAll_printer (es : List Event) (s : State) : (postAll es s).printer = s.printer := by
  induction es generalizing s with
  | nil => rfl
  | cons e es ih => exact ih (post e s)
@[simp] theorem postAll_punch (es : List Event) (s : State) : (postAll es s).punch = s.punch := by
  induction es generalizing s with
  | nil => rfl
  | cons e es ih => exact ih (post e s)
@[simp] theorem postAll_ident (es : List Event) (s : State) : (postAll es s).ident = s.ident := by
  induction es generalizing s with
  | nil => rfl
  | cons e es ih => exact ih (post e s)
@[simp] theorem postAll_calls (es : List Event) (s : State) : (postAll es s).calls = s.calls := by
  induction es generalizing s with
  | nil => rfl
  | cons e es ih => exact ih (post e s)
@[simp] theorem postAll_freeCount (es : List Event) (s : State) : (postAll es s).freeCount = s.freeCount := by
  induction es generalizing s with
  | nil => rfl
  | cons e es ih => exact ih (post e s)
@[simp] theorem postAll_pending (es : List Event) (s : State) : (postAll es s).pending = s.pending := by
  induction es generalizing s with
  | nil => rfl
  | cons e es ih => exact ih (post e s)

end Sys2Proof.Machine
end

