-- ==== Sys2Proof/Laws/Keeps.lean ====
section
/-! SUPPORT. What every shared operation keeps. Keeps s t: a sound store stays sound, the open slots stay in agreement, bounds
stay, and both ports only grow. Moves s t: Keeps, and everything outside the traffic itself is as before. Both are reflexive and
transitive; this file holds them for the primitive updates. -/

namespace Sys2Proof.Machine

/-- What every operation but a reset keeps. -/
structure Keeps (s t : State) : Prop where
  sound : s.store.Sound → t.store.Sound
  slots : s.store.Sound → s.store.SlotsAgree → t.store.SlotsAgree
  bounded : s.Bounded → t.Bounded
  sGrows : s.sPort.Grows t.sPort
  xGrows : s.xPort.Grows t.xPort

/-- What traffic that moves keeps. -/
structure Moves (s t : State) : Prop extends Keeps s t where
  still : t.still = s.still

theorem Flags.le_refl (f : Flags) : f.le f := ⟨id, id, id, id, id, id, id⟩

theorem Flags.le_trans {f g h : Flags} (a : f.le g) (b : g.le h) : f.le h :=
  ⟨b.1 ∘ a.1, b.2.1 ∘ a.2.1, b.2.2.1 ∘ a.2.2.1, b.2.2.2.1 ∘ a.2.2.2.1, b.2.2.2.2.1 ∘ a.2.2.2.2.1,
    b.2.2.2.2.2.1 ∘ a.2.2.2.2.2.1, b.2.2.2.2.2.2 ∘ a.2.2.2.2.2.2⟩

theorem Flags.le_set (f : Flags) (g : Flag) : f.le (f.set g) := by cases g <;> simp [Flags.le, Flags.set]

theorem PortState.grows_refl (p : PortState) : p.Grows p := ⟨rfl, rfl, List.prefix_rfl, p.flags.le_refl, rfl, rfl⟩

theorem PortState.grows_trans {p q r : PortState} (a : p.Grows q) (b : q.Grows r) : p.Grows r :=
  ⟨b.1.trans a.1, b.2.1.trans a.2.1, a.2.2.1.trans b.2.2.1, Flags.le_trans a.2.2.2.1 b.2.2.2.1, b.2.2.2.2.1.trans a.2.2.2.2.1,
    b.2.2.2.2.2.trans a.2.2.2.2.2⟩

theorem PortState.grows_receive (p : PortState) (e : Event) : p.Grows (p.receive e) := by
  unfold PortState.receive
  split
  · split
    · exact ⟨rfl, rfl, List.prefix_append _ _, p.flags.le_refl, rfl, rfl⟩
    · exact ⟨rfl, rfl, List.prefix_rfl, ⟨id, id, id, id, id, id, fun _ => rfl⟩, rfl, rfl⟩
  · exact p.grows_refl

theorem PortState.grows_flag (p : PortState) (g : Flag) : p.Grows { p with flags := p.flags.set g } :=
  ⟨rfl, rfl, List.prefix_rfl, Flags.le_set _ _, rfl, rfl⟩

theorem PortState.receive_length {p : PortState} (h : p.queue.length ≤ eventQueueSize) (e : Event) :
    (p.receive e).queue.length ≤ eventQueueSize := by
  unfold PortState.receive
  split_ifs with _ h2
  · simpa using h2
  · exact h
  · exact h

theorem PortState.receive_still (p : PortState) (e : Event) : (p.receive e).still = p.still := by
  unfold PortState.receive
  split_ifs <;> rfl

theorem Keeps.refl (s : State) : Keeps s s := ⟨id, fun _ => id, id, s.sPort.grows_refl, s.xPort.grows_refl⟩

theorem Keeps.trans {s t u : State} (a : Keeps s t) (b : Keeps t u) : Keeps s u :=
  ⟨b.sound ∘ a.sound, fun w h => b.slots (a.sound w) (a.slots w h), b.bounded ∘ a.bounded, PortState.grows_trans a.sGrows b.sGrows, PortState.grows_trans a.xGrows b.xGrows⟩

theorem Moves.refl (s : State) : Moves s s := ⟨.refl s, rfl⟩

theorem Moves.trans {s t u : State} (a : Moves s t) (b : Moves t u) : Moves s u :=
  ⟨a.toKeeps.trans b.toKeeps, b.still.trans a.still⟩

/-- Two branches. -/
theorem Moves.ite {s a b : State} {p : Prop} [Decidable p] (x : Moves s a) (y : Moves s b) : Moves s (if p then a else b) := by
  split
  · exact x
  · exact y

/-! ## The primitive updates -/

theorem Keeps.ofLine (s : State) {l : LineUnit} (ha : s.line.arbiterSound → l.arbiterSound)
    (hq : s.line.qualitySound → l.qualitySound) : Keeps s (s.setLine l) :=
  ⟨id, fun _ => id, fun b => { b with arbiter := ha b.arbiter, quality := hq b.quality }, s.sPort.grows_refl, s.xPort.grows_refl⟩

theorem Moves.ofLine (s : State) {l : LineUnit} (h : l.still = s.line.still) (ha : s.line.arbiterSound → l.arbiterSound) :
    Moves s (s.setLine l) := by
  have hq : l.still.qualitySound = s.line.still.qualitySound := congrArg LineUnit.qualitySound h
  refine ⟨Keeps.ofLine s ha (cast hq.symm), ?_⟩
  simp only [State.still, State.setLine, h]

theorem Keeps.ofCalls (s : State) (c : Calls) : Keeps s (s.setCalls c) :=
  ⟨id, fun _ => id, fun b => { b with }, s.sPort.grows_refl, s.xPort.grows_refl⟩

theorem Moves.ofCalls (s : State) {c : Calls} (h : c.still = s.calls.still) : Moves s (s.setCalls c) := by
  refine ⟨Keeps.ofCalls s c, ?_⟩
  simp only [State.still, State.setCalls, h]

theorem Keeps.ofKb (s : State) {k : Keyboard}
    (h : s.kb.typeahead.length ≤ 32 ∧ s.kb.keys.length = 64 ∧ s.kb.plane0.length = 64 ∧ s.kb.plane1.length = 64 →
      k.typeahead.length ≤ 32 ∧ k.keys.length = 64 ∧ k.plane0.length = 64 ∧ k.plane1.length = 64) : Keeps s (s.setKb k) :=
  ⟨id, fun _ => id, fun b =>
    have r := h ⟨b.typeahead, b.keys, b.plane0, b.plane1⟩
    { b with typeahead := r.1, keys := r.2.1, plane0 := r.2.2.1, plane1 := r.2.2.2 }, s.sPort.grows_refl, s.xPort.grows_refl⟩

theorem Moves.ofTypeahead (s : State) (ys : List Symbol) (h : s.kb.typeahead.length ≤ 32 → ys.length ≤ 32) :
    Moves s (s.setKb { s.kb with typeahead := ys }) :=
  ⟨Keeps.ofKb s fun k => ⟨h k.1, k.2⟩, rfl⟩

theorem Keeps.ofDist (s : State) {d : Distributor} (h : s.dist.triggers.length = 4 → d.triggers.length = 4)
    (k : s.dist.history.length ≤ 8 → d.history.length ≤ 8) : Keeps s (s.setDist d) :=
  ⟨id, fun _ => id, fun b => { b with triggers := h b.triggers, history := k b.history }, s.sPort.grows_refl, s.xPort.grows_refl⟩

theorem Keeps.ofPrinter (s : State) {p : Printer} (h : s.printer.queue.length ≤ printQueueSize → p.queue.length ≤ printQueueSize) :
    Keeps s (s.setPrinter p) :=
  ⟨id, fun _ => id, fun b => { b with print := h b.print }, s.sPort.grows_refl, s.xPort.grows_refl⟩

theorem Moves.ofPrinter (s : State) {p : Printer} (e : p.still = s.printer.still)
    (h : s.printer.queue.length ≤ printQueueSize → p.queue.length ≤ printQueueSize) : Moves s (s.setPrinter p) := by
  refine ⟨Keeps.ofPrinter s h, ?_⟩
  simp only [State.still, State.setPrinter, e]

theorem Keeps.ofPunch (s : State) {p : Punch} (h : s.punch.queue.length ≤ punchQueueSize → p.queue.length ≤ punchQueueSize) :
    Keeps s (s.setPunch p) :=
  ⟨id, fun _ => id, fun b => { b with punch := h b.punch }, s.sPort.grows_refl, s.xPort.grows_refl⟩

theorem Moves.ofPunch (s : State) {p : Punch} (e : p.still = s.punch.still)
    (h : s.punch.queue.length ≤ punchQueueSize → p.queue.length ≤ punchQueueSize) : Moves s (s.setPunch p) := by
  refine ⟨Keeps.ofPunch s h, ?_⟩
  simp only [State.still, State.setPunch, e]

theorem Keeps.ofStore (s : State) {t : Store} (h : s.store.Sound → t.Sound) (k : s.store.Sound → s.store.SlotsAgree → t.SlotsAgree) :
    Keeps s (s.setStore t) :=
  ⟨h, k, fun b => { b with }, s.sPort.grows_refl, s.xPort.grows_refl⟩

theorem Moves.ofStore (s : State) {t : Store} (e : t.still = s.store.still) (h : s.store.Sound → t.Sound)
    (k : s.store.Sound → s.store.SlotsAgree → t.SlotsAgree) : Moves s (s.setStore t) := by
  refine ⟨Keeps.ofStore s h k, ?_⟩
  simp only [State.still, State.setStore, e]

theorem Keeps.ofPins (s : State) (v : Pins) : Keeps s (s.setPins v) :=
  ⟨id, fun _ => id, fun b => { b with }, s.sPort.grows_refl, s.xPort.grows_refl⟩

theorem Keeps.ofIdent (s : State) {v : Identity} (h : s.ident.slots.length = 8 → v.slots.length = 8) : Keeps s (s.setIdent v) :=
  ⟨id, fun _ => id, fun b => { b with slots := h b.slots }, s.sPort.grows_refl, s.xPort.grows_refl⟩

theorem Keeps.ofFree (s : State) (n : Nat) : Keeps s (s.setFree n) :=
  ⟨id, fun _ => id, fun b => { b with }, s.sPort.grows_refl, s.xPort.grows_refl⟩

theorem Moves.ofChan (s : State) (c : Chan) (w : Option ChanWork) : Moves s (s.setChan c w) := by
  cases c <;> exact ⟨⟨id, fun _ => id, fun b => { b with }, s.sPort.grows_refl, s.xPort.grows_refl⟩, rfl⟩

/-- An event is posted. -/
theorem Moves.ofPost (s : State) (e : Event) : Moves s (post e s) := by
  refine ⟨⟨id, fun _ => id, fun b => { b with sEvents := PortState.receive_length b.sEvents e, xEvents := PortState.receive_length b.xEvents e },
    s.sPort.grows_receive e, s.xPort.grows_receive e⟩, ?_⟩
  simp only [State.still, post, PortState.receive_still]

theorem Moves.ofFlag (s : State) (g : Flag) : Moves s (setFlag g s) :=
  ⟨⟨id, fun _ => id, fun b => { b with }, s.sPort.grows_flag g, s.xPort.grows_flag g⟩, rfl⟩

theorem Moves.ofPostAll (es : List Event) : ∀ s : State, Moves s (postAll es s) := by
  induction es with
  | nil => exact fun s => .refl s
  | cons e es ih => exact fun s => (Moves.ofPost s e).trans (ih _)

/-! ## The arbiter -/

theorem LineUnit.pass_still (l : LineUnit) : l.pass.still = l.still := by
  unfold LineUnit.pass
  split_ifs
  · cases h : l.requests <;> simp [LineUnit.still]
  · rfl

theorem LineUnit.pass_sound {l : LineUnit} (h : l.arbiterSound) : l.pass.arbiterSound := by
  unfold LineUnit.pass
  split_ifs with k
  · cases e : l.requests with
    | nil => simpa [e] using h
    | cons r rs =>
      have := h.1
      rw [e, List.nodup_cons] at this
      exact ⟨this.2, fun q hq => by cases hq; exact this.1⟩
  · exact h

theorem LineUnit.request_still (l : LineUnit) (r : Requester) : (l.request r).still = l.still := by
  unfold LineUnit.request
  split_ifs
  · rfl
  · rw [LineUnit.pass_still]
    rfl

theorem LineUnit.request_sound {l : LineUnit} (h : l.arbiterSound) (r : Requester) : (l.request r).arbiterSound := by
  unfold LineUnit.request
  split_ifs with k
  · exact h
  · rw [not_or] at k
    refine LineUnit.pass_sound ⟨?_, fun q hq => ?_⟩
    · simp only [List.nodup_append, List.nodup_singleton, List.mem_singleton, forall_eq, true_and]
      exact ⟨h.1, fun a ha e => k.2 (e ▸ ha)⟩
    · simp only [List.mem_append, List.mem_singleton, not_or]
      exact ⟨h.2 q hq, fun e => k.1 (e ▸ hq)⟩

theorem LineUnit.withdraw_still (l : LineUnit) (r : Requester) : (l.withdraw r).still = l.still := rfl

theorem LineUnit.withdraw_sound {l : LineUnit} (h : l.arbiterSound) (r : Requester) : (l.withdraw r).arbiterSound :=
  ⟨h.1.filter _, fun q hq m => h.2 q hq (List.mem_of_mem_filter m)⟩

theorem LineUnit.release_still (l : LineUnit) (r : Requester) : (l.release r).still = l.still := by
  unfold LineUnit.release
  split_ifs
  · rw [LineUnit.pass_still]
    rfl
  · rw [LineUnit.pass_still]
    rfl
  · rfl

theorem LineUnit.release_sound {l : LineUnit} (h : l.arbiterSound) (r : Requester) : (l.release r).arbiterSound := by
  unfold LineUnit.release
  by_cases k : l.holder = some r
  · rw [if_pos k]
    exact LineUnit.pass_sound ⟨h.1, fun q hq => by simp at hq⟩
  · rw [if_neg k]
    exact h

theorem LineUnit.leave_still (l : LineUnit) (r : Requester) : (l.leave r).still = l.still := by
  unfold LineUnit.leave
  rw [LineUnit.release_still, LineUnit.withdraw_still]

theorem LineUnit.leave_sound {l : LineUnit} (h : l.arbiterSound) (r : Requester) : (l.leave r).arbiterSound :=
  LineUnit.release_sound (LineUnit.withdraw_sound h r) r

theorem Moves.ofRequest (s : State) (r : Requester) : Moves s (request r s) :=
  Moves.ofLine s (s.line.request_still r) (fun h => LineUnit.request_sound h r)

theorem Moves.ofLeave (s : State) (r : Requester) : Moves s (leave r s) :=
  Moves.ofLine s (s.line.leave_still r) (fun h => LineUnit.leave_sound h r)

theorem Moves.ofBell (s : State) : Moves s (ringBell s) := Moves.ofPrinter s rfl id

/-! ## Sinks -/

theorem Printer.takeFrom_spec (p : Printer) (ys : List Symbol) :
    (p.takeFrom ys).still = p.still ∧ (p.takeFrom ys).queue.length ≤ ys.length := by
  induction ys generalizing p with
  | nil => exact ⟨rfl, Nat.le_refl 0⟩
  | cons y ys ih =>
    unfold Printer.takeFrom
    cases y.kind <;> first
      | exact ⟨rfl, Nat.le_succ _⟩
      | exact ⟨(ih _).1, (ih _).2.trans (Nat.le_succ _)⟩

/-- A symbol accepted lengthens the print queue by at most one. -/
theorem Printer.accept_spec (p : Printer) (y : Symbol) :
    (p.accept y).still = p.still ∧ (p.accept y).queue.length ≤ p.queue.length + 1 := by
  unfold Printer.accept
  dsimp only
  split_ifs
  · have := Printer.takeFrom_spec { p with queue := p.queue ++ [y] } (p.queue ++ [y])
    simpa [Printer.still] using this
  · simp [Printer.still]

theorem Punch.take_spec (p : Punch) : p.take.still = p.still ∧ p.take.queue.length ≤ p.queue.length := by
  unfold Punch.take
  cases h : p.queue with
  | nil => simp [Punch.still]
  | cons y ys =>
    simp only [Punch.beginRow]
    cases rowsOf p.caseNow y <;> simp [Punch.still]

/-- A symbol accepted lengthens the punch queue by at most one. -/
theorem Punch.accept_spec (p : Punch) (y : Symbol) :
    (p.accept y).still = p.still ∧ (p.accept y).queue.length ≤ p.queue.length + 1 := by
  unfold Punch.accept
  dsimp only
  split_ifs
  · have := Punch.take_spec { p with queue := p.queue ++ [y] }
    simpa [Punch.still] using this
  · simp [Punch.still]

theorem Printer.offer_takes {p : Printer} (h : p.offer = .takes) : p.queue.length < printQueueSize := by
  unfold Printer.offer at h
  split_ifs at h with _ k
  rw [not_or] at k
  omega

theorem Punch.offer_takes {p : Punch} (h : p.offer = .takes) : p.queue.length < punchQueueSize := by
  unfold Punch.offer at h
  split_ifs at h with _ k
  rw [not_or] at k
  omega

theorem Moves.ofPrint (s : State) (y : Symbol) (h : s.printer.offer = .takes) : Moves s (s.setPrinter (s.printer.accept y)) :=
  Moves.ofPrinter s (s.printer.accept_spec y).1 fun _ => (s.printer.accept_spec y).2.trans (Printer.offer_takes h)

theorem Moves.ofPunchRow (s : State) (y : Symbol) (h : s.punch.offer = .takes) : Moves s (s.setPunch (s.punch.accept y)) :=
  Moves.ofPunch s (s.punch.accept_spec y).1 fun _ => (s.punch.accept_spec y).2.trans (Punch.offer_takes h)

end Sys2Proof.Machine
end

