-- ==== Sys2Proof/Laws/StoreKeeps.lean ====
section
/-! SUPPORT. What the Traffic Store's operations keep: each block in one place, distinct numbers, the open slots in agreement, the
memory canonical. -/

namespace Sys2Proof.Machine

/-! ## Changing records -/

/-- The change keeps a record's number and chain blocks. -/
def SameBlocks (f : Record → Record) (r : Record) : Prop :=
  (f r).number = r.number ∧ (f r).chain.map (·.block) = r.chain.map (·.block)

/-- The change keeps a record's state and holder. -/
def SameHead (f : Record → Record) (r : Record) : Prop := (f r).state = r.state ∧ (f r).holder = r.holder

theorem map_numbers {d : List Record} {g : Record → Record} (h : ∀ r ∈ d, (g r).number = r.number) :
    (d.map g).map (·.number) = d.map (·.number) := by
  rw [List.map_map]
  exact List.map_congr_left h

theorem blocksOf_map {d : List Record} {g : Record → Record} (h : ∀ r ∈ d, (g r).chain.map (·.block) = r.chain.map (·.block)) :
    blocksOf (d.map g) = blocksOf d := by
  unfold blocksOf
  rw [List.flatMap_map]
  induction d with
  | nil => rfl
  | cons r d ih =>
    simp only [List.flatMap_cons]
    rw [h r (by simp), ih fun q hq => h q (by simp [hq])]

theorem Store.sound_map {t : Store} (w : t.Sound) {g : Record → Record} (h : ∀ r ∈ t.directory, SameBlocks g r) :
    ({ t with directory := t.directory.map g } : Store).Sound where
  blocks := by
    rw [blocksOf_map fun r hr => (h r hr).2]
    exact w.blocks
  distinct := by
    rw [map_numbers fun r hr => (h r hr).1]
    exact w.distinct
  numbers := by
    intro r hr
    obtain ⟨q, hq, rfl⟩ := List.mem_map.mp hr
    rw [(h q hq).1]
    exact w.numbers q hq
  counter := w.counter
  room := by simpa using w.room
  canonical := w.canonical
  within := w.within

theorem Store.slots_map {t : Store} (w : t.SlotsAgree) {g : Record → Record}
    (h : ∀ r ∈ t.directory, (g r).number = r.number ∧ SameHead g r) :
    ({ t with directory := t.directory.map g } : Store).SlotsAgree where
  slots := by
    intro k n
    rw [show ({ t with directory := t.directory.map g } : Store).slot k = t.slot k by cases k <;> rfl]
    rw [w.slots k n]
    constructor
    · rintro ⟨r, hr, h1, h2, h3⟩
      have e := h r hr
      exact ⟨g r, List.mem_map_of_mem hr, by rw [e.1, h1], by rw [e.2.1, h2], by rw [e.2.2, h3]⟩
    · rintro ⟨q, hq, h1, h2, h3⟩
      obtain ⟨r, hr, rfl⟩ := List.mem_map.mp hq
      have e := h r hr
      exact ⟨r, hr, by rw [← e.1, h1], by rw [← e.2.1, h2], by rw [← e.2.2, h3]⟩
  holders := by
    intro q hq
    obtain ⟨r, hr, rfl⟩ := List.mem_map.mp hq
    rw [(h r hr).2.1, (h r hr).2.2]
    exact w.holders r hr
  distinct := by
    rw [map_numbers fun r hr => (h r hr).1]
    exact w.distinct

theorem Store.update_sound {t : Store} (w : t.Sound) {n : Nat} {f : Record → Record}
    (h : ∀ r ∈ t.directory, r.number = n → SameBlocks f r) : (t.update n f).Sound :=
  Store.sound_map w fun r hr => by
    dsimp only [SameBlocks]
    split_ifs with k
    · exact h r hr k
    · exact ⟨rfl, rfl⟩

theorem Store.update_slots {t : Store} (w : t.SlotsAgree) {n : Nat} {f : Record → Record}
    (h : ∀ r ∈ t.directory, r.number = n → (f r).number = r.number ∧ SameHead f r) : (t.update n f).SlotsAgree :=
  Store.slots_map w fun r hr => by
    dsimp only [SameHead]
    split_ifs with k
    · exact h r hr k
    · exact ⟨rfl, rfl, rfl⟩

/-- A change of records that keeps number, chain blocks, state and holder. -/
theorem Moves.ofUpdate (s : State) (n : Nat) {f : Record → Record}
    (h : ∀ r, (f r).number = r.number ∧ (f r).chain.map (·.block) = r.chain.map (·.block) ∧ SameHead f r) :
    Moves s (updateMsg n f s) :=
  Moves.ofStore s rfl (fun w => Store.update_sound w fun r _ _ => ⟨(h r).1, (h r).2.1⟩)
    (fun _ w => Store.update_slots w fun r _ _ => ⟨(h r).1, (h r).2.2⟩)

/-- A record that a number finds is in the directory and carries the number. -/
theorem Store.find_mem {t : Store} {n : Nat} {r : Record} (h : t.find n = some r) : r ∈ t.directory ∧ r.number = n :=
  ⟨List.mem_of_find?_eq_some h, by simpa using List.find?_some h⟩

/-- In a store with distinct numbers, one record carries a number. -/
theorem number_unique {d : List Record} (w : (d.map (·.number)).Nodup) {q r : Record} (hq : q ∈ d) (hr : r ∈ d)
    (h : q.number = r.number) : q = r := List.inj_on_of_nodup_map w hq hr h

/-- The record a number finds replaced by one with the same number, chain blocks, state and holder. -/
theorem Moves.ofReplace (s : State) {n : Nat} {r r' : Record} (hf : findMsg n s = some r)
    (h : r'.number = r.number ∧ r'.chain.map (·.block) = r.chain.map (·.block) ∧ r'.state = r.state ∧ r'.holder = r.holder) :
    Moves s (updateMsg n (fun _ => r') s) := by
  have m := Store.find_mem hf
  refine Moves.ofStore s rfl (fun w => Store.update_sound w fun q hq e => ?_) (fun _ w => Store.update_slots w fun q hq e => ?_)
  · cases number_unique w.distinct hq m.1 (e.trans m.2.symm)
    exact ⟨h.1, h.2.1⟩
  · cases number_unique w.distinct hq m.1 (e.trans m.2.symm)
    exact ⟨h.1, h.2.2⟩

/-! ## Blocks -/

/-- Every block of a chain is one of the 512. -/
theorem Store.Sound.block_lt {t : Store} (w : t.Sound) {r : Record} (hr : r ∈ t.directory) {b : ChainBlock} (hb : b ∈ r.chain) :
    b.block < Config.blocks := by
  have : b.block ∈ t.free ++ t.retired ++ blocksOf t.directory :=
    List.mem_append_right _ (List.mem_flatMap.mpr ⟨r, hr, List.mem_map_of_mem hb⟩)
  simpa using (w.blocks.mem_iff).mp this

theorem Store.Sound.free_lt {t : Store} (w : t.Sound) {b : Nat} (hb : b ∈ t.free) : b < Config.blocks := by
  have : b ∈ t.free ++ t.retired ++ blocksOf t.directory := List.mem_append_left _ (List.mem_append_left _ hb)
  simpa using (w.blocks.mem_iff).mp this

theorem Store.writeBlock_sound {t : Store} (w : t.Sound) {b : Nat} (hb : b < Config.blocks) {bytes : List Byte}
    (hl : bytes.length ≤ Config.blockSize) : (t.writeBlock b bytes).Sound :=
  { w with
    canonical := writeRun_wf _ w.canonical _
    within := writeRun_within _ w.within _ (by
      simp only [List.length_append, List.length_replicate]
      have : Config.blockSize * b + Config.blockSize ≤ Config.blocks * Config.blockSize := by
        rw [show Config.blockSize * b + Config.blockSize = (b + 1) * Config.blockSize by ring]
        exact Nat.mul_le_mul_right _ hb
      omega) }

theorem Store.slot_directory {t u : Store} (h1 : u.slotLine = t.slotLine) (h2 : u.slotKeyboard = t.slotKeyboard)
    (h3 : u.slotS = t.slotS) (h4 : u.slotX = t.slotX) (k : Holder) : u.slot k = t.slot k := by
  cases k with
  | line => exact h1
  | keyboard => exact h2
  | port p => cases p <;> assumption

/-- Slots and directory decide whether the slots agree. -/
theorem Store.SlotsAgree.of_same {t u : Store} (w : t.SlotsAgree) (h0 : u.directory = t.directory) (h1 : u.slotLine = t.slotLine)
    (h2 : u.slotKeyboard = t.slotKeyboard) (h3 : u.slotS = t.slotS) (h4 : u.slotX = t.slotX) : u.SlotsAgree where
  slots := by
    intro k n
    rw [h0, Store.slot_directory h1 h2 h3 h4]
    exact w.slots k n
  holders := by
    rw [h0]
    exact w.holders
  distinct := by
    rw [h0]
    exact w.distinct

theorem Store.writeBlock_still (t : Store) (b : Nat) (bytes : List Byte) : (t.writeBlock b bytes).still = t.still := rfl

theorem Store.update_still (t : Store) (n : Nat) (f : Record → Record) : (t.update n f).still = t.still := rfl

theorem Store.writeBlock_slots {t : Store} (w : t.SlotsAgree) (b : Nat) (bytes : List Byte) : (t.writeBlock b bytes).SlotsAgree :=
  w.of_same rfl rfl rfl rfl rfl

theorem readRun_length (m : List Host.Cell) (a n : Nat) : (Memory.readRun m a n).length = n := by simp [Memory.readRun]

theorem blockBytes_length (t : Store) (b : Nat) : (t.blockBytes b).length = Config.blockSize := readRun_length _ _ _

theorem flipBit_length (bytes : List Byte) (e : Nat) : (flipBit bytes e).length = bytes.length := by simp [flipBit]

/-- The block-changed notice touches channels only. -/
theorem Moves.ofBlockChanged (n idx : Nat) (fresh : List Symbol) (self : Option Chan) (s : State) :
    Moves s (blockChanged n idx fresh self s) :=
  ⟨⟨id, fun _ => id, fun b => { b with }, s.sPort.grows_refl, s.xPort.grows_refl⟩, rfl⟩

/-- A found record's chain block is one of the 512 in a sound store. -/
theorem Store.Sound.found_lt {t : Store} (w : t.Sound) {n idx : Nat} {b : ChainBlock}
    (h : (t.find n).bind (fun r => r.chain[idx]?) = some b) : b.block < Config.blocks := by
  obtain ⟨r, hr, hb⟩ := Option.bind_eq_some_iff.mp h
  exact w.block_lt (Store.find_mem hr).1 (List.mem_of_getElem? hb)

/-- A change that a projection does not see. -/
theorem map_modify_same {α β : Type} {g : α → β} {f : α → α} (h : ∀ a, g (f a) = g a) (l : List α) (i : Nat) :
    (l.modify i f).map g = l.map g := by
  apply List.ext_getElem?
  intro j
  simp only [List.getElem?_map, List.getElem?_modify]
  cases l[j]? with
  | none => rfl
  | some a => by_cases e : i = j <;> simp [e, h]

/-- A read of a block (R81, R82). -/
theorem Moves.ofReadBlock (n idx : Nat) (who : Reader) (self : Option Chan) (s : State) :
    Moves s (readBlock n idx who self s).state := by
  unfold readBlock
  split
  · exact .refl s
  · next b hb =>
    split_ifs
    · exact .refl s
    · dsimp only
      split
      · exact .refl s
      · refine Moves.trans ?_ (Moves.ofBlockChanged _ _ _ _ _)
        refine Moves.trans ?_ (Moves.ofFlag _ _)
        refine Moves.ofStore s rfl (fun w => ?_) (fun _ w => w.of_same rfl rfl rfl rfl rfl)
        have k := Store.writeBlock_sound w (w.found_lt hb)
          (bytes := flipBit (s.store.blockBytes b.block) ‹Nat›)
          (by rw [flipBit_length, blockBytes_length])
        exact { k with }
      · refine Moves.trans ?_ (Moves.ofPost _ _)
        refine Moves.trans ?_ (Moves.ofFlag _ _)
        refine Moves.ofUpdate s n fun r => ⟨rfl, ?_, rfl, rfl⟩
        exact map_modify_same (g := ChainBlock.block) (f := fun k => { k with damaged := true }) (fun _ => rfl) r.chain idx

/-! ## Numbers (R84) -/

theorem nextNumber_range {n : Nat} (h : 1 ≤ n ∧ n ≤ 9999) : 1 ≤ nextNumber n ∧ nextNumber n ≤ 9999 := by
  unfold nextNumber
  split_ifs <;> omega

/-- k numbers on from n, round from 9999 to 1. -/
theorem nextNumber_iter {n : Nat} (h : 1 ≤ n ∧ n ≤ 9999) (k : Nat) (hk : k ≤ 9998) :
    nextNumber^[k] n = if n + k ≤ 9999 then n + k else n + k - 9999 := by
  induction k with
  | zero => simp [h.2]
  | succ k ih =>
    rw [Function.iterate_succ_apply', ih (by omega)]
    unfold nextNumber
    split_ifs <;> omega

/-- freeNumber answers one of the numbers it looks at, the first that no record carries unless it looks too few times. -/
theorem freeNumber_spec (k : Nat) : ∀ (n : Nat) (d : List Record), ∃ j ≤ k, freeNumber k n d = nextNumber^[j] n ∧
    (∀ i < j, nextNumber^[i] n ∈ d.map (·.number)) ∧ (j < k → freeNumber k n d ∉ d.map (·.number)) := by
  induction k with
  | zero => exact fun n d => ⟨0, Nat.le_refl 0, rfl, by simp, by simp⟩
  | succ k ih =>
    intro n d
    unfold freeNumber
    by_cases h : d.any (fun r => r.number == n) = true
    · rw [if_pos h]
      obtain ⟨j, hj, e, a, b⟩ := ih (nextNumber n) d
      refine ⟨j + 1, by omega, e, fun i hi => ?_, fun hk => b (by omega)⟩
      cases i with
      | zero => simpa [List.any_eq_true] using h
      | succ i => exact a i (by omega)
    · rw [if_neg h]
      refine ⟨0, Nat.zero_le _, rfl, by simp, fun _ => ?_⟩
      simpa [List.any_eq_true] using h

/-- The number a created message takes is in range and no record carries it (R84). -/
theorem Store.nextFree_fresh {t : Store} (h : 1 ≤ t.counter ∧ t.counter ≤ 9999) (room : t.directory.length ≤ 9997) :
    (1 ≤ t.nextFree ∧ t.nextFree ≤ 9999) ∧ t.nextFree ∉ t.directory.map (·.number) := by
  obtain ⟨j, hj, e, a, b⟩ := freeNumber_spec t.directory.length t.counter t.directory
  have e' : t.nextFree = nextNumber^[j] t.counter := e
  refine ⟨?_, ?_⟩
  · rw [e', nextNumber_iter h j (by omega)]
    split_ifs <;> omega
  · rcases Nat.lt_or_ge j t.directory.length with hlt | hge
    · exact b hlt
    · have hj' : j = t.directory.length := by omega
      subst hj'
      intro mem
      -- all of j + 1 different numbers would be carried by j records
      have sub : (List.range (t.directory.length + 1)).map (fun i => nextNumber^[i] t.counter) ⊆ t.directory.map (·.number) := by
        intro x hx
        obtain ⟨i, hi, rfl⟩ := List.mem_map.mp hx
        rw [List.mem_range] at hi
        rcases Nat.lt_or_ge i t.directory.length with k | k
        · exact a i k
        · have : i = t.directory.length := by omega
          subst this
          exact e' ▸ mem
      have nd : ((List.range (t.directory.length + 1)).map (fun i => nextNumber^[i] t.counter)).Nodup := by
        refine List.Nodup.map_on (fun x hx y hy hxy => ?_) List.nodup_range
        rw [List.mem_range] at hx hy
        rw [nextNumber_iter h x (by omega), nextNumber_iter h y (by omega)] at hxy
        split_ifs at hxy <;> omega
      have := (nd.subperm sub).length_le
      simp at this

/-- A creation keeps a sound store sound where the directory has room (R84, R89, R90). -/
theorem Store.createMsg_sound {t : Store} (w : t.Sound) (room : t.directory.length < Config.directorySize) (k : MsgKind)
    (h : Holder) : (t.createMsg k h).Sound := by
  have f := Store.nextFree_fresh w.counter (by simp only [Config.directorySize] at room; omega)
  have base : ({ t with directory := t.directory ++ [Record.fresh t.nextFree k h t.clock], counter := nextNumber t.nextFree } :
      Store).Sound :=
    { blocks := by
        have : blocksOf (t.directory ++ [Record.fresh t.nextFree k h t.clock]) = blocksOf t.directory := by
          simp [blocksOf, Record.fresh]
        rw [this]
        exact w.blocks
      distinct := by
        rw [List.map_append, List.nodup_append]
        refine ⟨w.distinct, by simp, ?_⟩
        intro a ha b hb e
        simp only [List.map_cons, List.map_nil, List.mem_singleton] at hb
        subst e
        subst hb
        exact f.2 ha
      numbers := by
        intro r hr
        rcases List.mem_append.mp hr with q | q
        · exact w.numbers r q
        · rw [List.mem_singleton] at q
          subst q
          exact f.1
      counter := nextNumber_range f.1
      room := by simpa using room
      canonical := w.canonical
      within := w.within }
  unfold Store.createMsg
  cases h with
  | line => exact { base with }
  | keyboard => exact { base with }
  | port p => cases p <;> exact { base with }

/-! ## Slots (R87) -/

theorem Store.setSlot_same (t : Store) (h : Holder) (v : Option Nat) : (t.setSlot h v).slot h = v := by
  cases h with
  | line => rfl
  | keyboard => rfl
  | port p => cases p <;> rfl

theorem Store.setSlot_ne (t : Store) {h k : Holder} (v : Option Nat) (ne : k ≠ h) : (t.setSlot h v).slot k = t.slot k := by
  cases h with
  | line => cases k with
    | line => exact absurd rfl ne
    | keyboard => rfl
    | port q => cases q <;> rfl
  | keyboard => cases k with
    | line => rfl
    | keyboard => exact absurd rfl ne
    | port q => cases q <;> rfl
  | port p => cases k with
    | line => cases p <;> rfl
    | keyboard => cases p <;> rfl
    | port q => cases p <;> cases q <;> first | rfl | exact absurd rfl ne

@[simp] theorem Store.setSlot_directory (t : Store) (h : Holder) (v : Option Nat) : (t.setSlot h v).directory = t.directory := by
  cases h with
  | line => rfl
  | keyboard => rfl
  | port p => cases p <;> rfl

theorem Store.setSlot_sound {t : Store} (w : t.Sound) (h : Holder) (v : Option Nat) : (t.setSlot h v).Sound := by
  cases h with
  | line => exact { w with }
  | keyboard => exact { w with }
  | port p => cases p <;> exact { w with }

theorem Store.setSlot_still (t : Store) (h : Holder) (v : Option Nat) : (t.setSlot h v).still = t.still := by
  cases h with
  | line => rfl
  | keyboard => rfl
  | port p => cases p <;> rfl

/-- A creation keeps the slots in agreement where its holder's slot is empty and its number is fresh (R87). -/
theorem Store.createMsg_slots {t : Store} (w : t.SlotsAgree) {h : Holder} (e : t.slot h = none)
    (f : t.nextFree ∉ t.directory.map (·.number)) (k : MsgKind) : (t.createMsg k h).SlotsAgree where
  slots := by
    intro k' n
    have dir : (t.createMsg k h).directory = t.directory ++ [Record.fresh t.nextFree k h t.clock] := by simp [Store.createMsg]
    rw [dir]
    by_cases hk : k' = h
    · subst hk
      have : (t.createMsg k k').slot k' = some t.nextFree := Store.setSlot_same _ _ _
      rw [this]
      constructor
      · intro q
        cases q
        exact ⟨_, List.mem_append_right _ (List.mem_singleton.mpr rfl), rfl, rfl, rfl⟩
      · rintro ⟨r, hr, h1, h2, h3⟩
        rcases List.mem_append.mp hr with q | q
        · have := (w.slots k' n).mpr ⟨r, q, h1, h2, h3⟩
          rw [e] at this
          cases this
        · rw [List.mem_singleton] at q
          subst q
          rw [← h1]
          rfl
    · have : (t.createMsg k h).slot k' = t.slot k' := by
        unfold Store.createMsg
        rw [Store.setSlot_ne _ _ hk]
        exact Store.slot_directory rfl rfl rfl rfl k'
      rw [this, w.slots k' n]
      constructor
      · rintro ⟨r, hr, h⟩
        exact ⟨r, List.mem_append_left _ hr, h⟩
      · rintro ⟨r, hr, h1, h2, h3⟩
        rcases List.mem_append.mp hr with q | q
        · exact ⟨r, q, h1, h2, h3⟩
        · rw [List.mem_singleton] at q
          subst q
          exact absurd (Option.some.inj h3).symm hk
  holders := by
    intro r hr
    have dir : (t.createMsg k h).directory = t.directory ++ [Record.fresh t.nextFree k h t.clock] := by simp [Store.createMsg]
    rw [dir] at hr
    rcases List.mem_append.mp hr with q | q
    · exact w.holders r q
    · rw [List.mem_singleton] at q
      subst q
      simp [Record.fresh]
  distinct := by
    have dir : (t.createMsg k h).directory = t.directory ++ [Record.fresh t.nextFree k h t.clock] := by simp [Store.createMsg]
    rw [dir, List.map_append, List.nodup_append]
    refine ⟨w.distinct, by simp, ?_⟩
    intro a ha b hb e
    simp only [List.map_cons, List.map_nil, List.mem_singleton] at hb
    subst e
    subst hb
    exact f ha

theorem Store.find_none {t : Store} {n : Nat} (h : t.find n = none) : n ∉ t.directory.map (·.number) := by
  simpa [Store.find, List.find?_eq_none] using h

/-! ## Leaving OPEN (R85, R87, R92, R96) -/

/-- The store after a message leaves OPEN. -/
theorem Store.close_slots {t : Store} (w : t.SlotsAgree) {n : Nat} {r : Record} (hf : t.find n = some r) {st : MsgState}
    (hst : st ≠ .opened) (c : Option Word) :
    ((match r.holder with
      | some h => t.setSlot h none
      | none => t).update n (fun m => { m with state := st, closedAt := c, holder := none })).SlotsAgree := by
  have m := Store.find_mem hf
  -- the directory after, and where a record of it comes from
  have dir : ∀ u : Store, u.directory = t.directory → (u.update n (fun m => { m with state := st, closedAt := c, holder := none })).directory
      = t.directory.map (fun q => if q.number = n then { q with state := st, closedAt := c, holder := none } else q) := by
    intro u hu
    simp [Store.update, hu]
  have base : ∀ u : Store, u.directory = t.directory →
      (∀ k n', u.slot k = some n' ↔ (t.slot k = some n' ∧ r.holder ≠ some k)) →
      (u.update n (fun m => { m with state := st, closedAt := c, holder := none })).SlotsAgree := by
    intro u hu hs
    refine ⟨fun k n' => ?_, ?_, ?_⟩
    · rw [dir u hu, show (u.update n (fun m => { m with state := st, closedAt := c, holder := none })).slot k = u.slot k from
        Store.slot_directory rfl rfl rfl rfl k, hs, w.slots]
      constructor
      · rintro ⟨⟨q, hq, h1, h2, h3⟩, ne⟩
        refine ⟨q, List.mem_map.mpr ⟨q, hq, ?_⟩, h1, h2, h3⟩
        rw [if_neg]
        intro e
        cases number_unique w.distinct hq m.1 (e.trans m.2.symm)
        exact ne h3
      · rintro ⟨q, hq, h1, h2, h3⟩
        obtain ⟨p, hp, rfl⟩ := List.mem_map.mp hq
        by_cases e : p.number = n
        · rw [if_pos e] at h2
          exact absurd h2 hst
        · rw [if_neg e] at h1 h2 h3
          refine ⟨⟨p, hp, h1, h2, h3⟩, fun hr => e ?_⟩
          -- two open records of one holder would carry one number
          have open' : r.state = .opened := (w.holders r m.1).mpr (by rw [hr]; simp)
          have a := (w.slots k r.number).mpr ⟨r, m.1, rfl, open', hr⟩
          have b := (w.slots k p.number).mpr ⟨p, hp, rfl, h2, h3⟩
          rw [a] at b
          exact (Option.some.inj b).symm.trans m.2
    · rw [dir u hu]
      intro q hq
      obtain ⟨p, hp, rfl⟩ := List.mem_map.mp hq
      by_cases e : p.number = n
      · rw [if_pos e]
        simp [hst]
      · rw [if_neg e]
        exact w.holders p hp
    · rw [dir u hu, map_numbers]
      · exact w.distinct
      · intro p _
        by_cases e : p.number = n <;> simp [e]
  cases hh : r.holder with
  | none =>
    refine base t rfl fun k n' => ?_
    simp [hh]
  | some h =>
    refine base (t.setSlot h none) (Store.setSlot_directory _ _ _) fun k n' => ?_
    by_cases e : k = h
    · subst e
      rw [Store.setSlot_same]
      simp [hh]
    · rw [Store.setSlot_ne _ _ e]
      have : some h ≠ some k := fun x => e (Option.some.inj x).symm
      simp [hh, this]

theorem Store.close_sound {t : Store} (w : t.Sound) {n : Nat} (h : Option Holder) (st : MsgState) (c : Option Word) :
    ((match h with
      | some h => t.setSlot h none
      | none => t).update n (fun m => { m with state := st, closedAt := c, holder := none })).Sound := by
  cases h with
  | none => exact Store.update_sound w fun _ _ _ => ⟨rfl, rfl⟩
  | some h => exact Store.update_sound (Store.setSlot_sound w h none) fun _ _ _ => ⟨rfl, rfl⟩

/-! ## Deleting (R83, R103) -/

theorem insertAsc_perm {b : Nat} : ∀ {l : List Nat}, b ∉ l → (insertAsc b l).Perm (b :: l)
  | [], _ => .refl _
  | c :: cs, h => by
    simp only [List.mem_cons, not_or] at h
    unfold insertAsc
    split_ifs with h1 h2
    · exact .refl _
    · exact absurd h2 h.1
    · exact ((insertAsc_perm h.2).cons c).trans (.swap b c cs)

theorem insertAsc_fold {bs : List ChainBlock} : ∀ {l : List Nat}, (bs.map (·.block) ++ l).Nodup →
    (bs.foldl (fun set b => insertAsc b.block set) l).Perm (bs.map (·.block) ++ l) := by
  induction bs with
  | nil => exact fun _ => .refl _
  | cons b bs ih =>
    intro l h
    simp only [List.map_cons, List.cons_append, List.nodup_cons, List.mem_append, not_or] at h
    have p := insertAsc_perm h.1.2
    simp only [List.foldl_cons, List.map_cons, List.cons_append]
    refine (ih ?_).trans ((p.append_left _).trans List.perm_middle)
    refine ((p.append_left _).nodup_iff).mpr ((List.perm_middle.nodup_iff).mpr ?_)
    rw [List.nodup_cons, List.mem_append, not_or]
    exact ⟨h.1, h.2⟩

/-- The blocks of a chain, split by damage. -/
theorem chain_split (chain : List ChainBlock) :
    ((chain.filter (fun b => !b.damaged)).map (·.block) ++ (chain.filter (·.damaged)).map (·.block)).Perm
      (chain.map (·.block)) := by
  induction chain with
  | nil => exact .refl _
  | cons b bs ih =>
    cases h : b.damaged
    · simpa [h] using ih
    · simp only [h, List.filter_cons, Bool.not_true, Bool.false_eq_true, if_false, if_true, List.map_cons]
      exact List.perm_middle.trans (ih.cons b.block)

theorem filter_number {d : List Record} {r : Record} (hr : r ∈ d) (w : (d.map (·.number)).Nodup) :
    d.Perm (r :: d.filter (fun q => q.number ≠ r.number)) := by
  induction d with
  | nil => cases hr
  | cons q d ih =>
    simp only [List.map_cons, List.nodup_cons] at w
    rcases List.mem_cons.mp hr with e | hr
    · subst e
      rw [List.filter_cons, if_neg (by simp), List.filter_eq_self.mpr]
      intro x hx
      simp only [decide_eq_true_eq]
      exact fun e => w.1 (e ▸ List.mem_map_of_mem hx)
    · have ne : q.number ≠ r.number := fun e => w.1 (e ▸ List.mem_map_of_mem hr)
      rw [List.filter_cons, if_pos (by simpa using ne)]
      exact ((ih hr w.2).cons q).trans (.swap r q _)

theorem blocksOf_perm {d e : List Record} (h : d.Perm e) : (blocksOf d).Perm (blocksOf e) := h.flatMap_right _

end Sys2Proof.Machine
end

