-- ==== Sys2Proof/Laws/TrafficMoves.lean ====
section
/-! SUPPORT. Everything that moves traffic only moves traffic: the channels, the sequencer, appends and closes, deliveries and the
transmitter. One lemma per operation. -/

namespace Sys2Proof.Machine

/-- Marks and counts of a record that its number, chain, state and holder do not see. -/
theorem Moves.ofMarks (s : State) (n : Nat) {f : Record → Record}
    (h : ∀ r, (f r).number = r.number ∧ (f r).chain = r.chain ∧ SameHead f r) : Moves s (updateMsg n f s) :=
  Moves.ofUpdate s n fun r => ⟨(h r).1, by rw [(h r).2.1], (h r).2.2⟩

/-! ## Channels -/

theorem Moves.ofSinksTake (s : State) (k : SinkSet) (y : Symbol) (h : sinksReady k s = true) : Moves s (sinksTake k y s) := by
  simp only [sinksReady, Bool.and_eq_true, Bool.or_eq_true, Bool.not_eq_true', beq_iff_eq] at h
  unfold sinksTake
  have a : Moves s (if k.printer then s.setPrinter (s.printer.accept y) else s) := by
    split_ifs with hp
    · exact Moves.ofPrint s y (h.1.resolve_left (by simp [hp]))
    · exact .refl s
  have hp : (if k.printer then s.setPrinter (s.printer.accept y) else s).punch = s.punch := by split_ifs <;> rfl
  refine a.trans ?_
  dsimp only
  by_cases hq : k.punch = true
  · rw [if_pos hq]
    exact Moves.ofPunchRow _ y (by rw [hp]; exact h.2.resolve_left (by simp [hq]))
  · rw [if_neg hq]
    exact .refl _

theorem Moves.ofChanToIdle (c : Chan) (w : ChanWork) (s : State) : Moves s (chanToIdle c w s) :=
  (Moves.ofChan s c none).trans ((Moves.ofMarks _ _ (by exact fun _ => ⟨rfl, rfl, rfl, rfl⟩)).trans (Moves.ofLeave _ _))

theorem Moves.ofChanDone (c : Chan) (w : ChanWork) (s : State) : Moves s (chanDone c w s).1 :=
  (Moves.ofChanToIdle c w s).trans (Moves.ofPost _ _)

theorem Moves.ofChanAbort (c : Chan) (w : ChanWork) (s : State) : Moves s (chanAbort c w s).1 :=
  (Moves.ofChanToIdle c w s).trans ((Moves.ofMarks _ _ (by exact fun _ => ⟨rfl, rfl, rfl, rfl⟩)).trans (Moves.ofPost _ _))

theorem Moves.ofHold (c : Chan) (reason : HoldReason) (s : State) : Moves s (holdChan c reason s).1 := by
  unfold holdChan
  cases s.chan c with
  | none => exact .refl s
  | some w =>
    cases h : w.phase with
    | held r => simpa [h] using Moves.refl s
    | _ => simpa [h] using (Moves.ofChan s c _).trans ((Moves.ofLeave _ _).trans (Moves.ofPost _ _))

theorem Moves.ofStop (c : Chan) (s : State) : Moves s (stopChan c s).1 := by
  unfold stopChan
  cases s.chan c with
  | none => exact .refl s
  | some w => exact (Moves.ofChanToIdle c w s).trans (Moves.ofPost _ _)

theorem Moves.ofEnsureCopy (c : Chan) (w : ChanWork) (j : Nat) (s : State) : Moves s (ensureCopy c w j s).1 := by
  unfold ensureCopy
  split_ifs with h
  · exact .refl s
  · dsimp only
    split_ifs
    · exact Moves.ofReadBlock _ _ _ _ s
    · exact (Moves.ofReadBlock _ _ _ _ s).trans (Moves.ofChan _ _ _)

theorem Moves.ofProceed (c : Chan) (s : State) : Moves s (proceedChan c s).1 := by
  unfold proceedChan
  cases s.chan c with
  | none => exact .refl s
  | some w0 =>
    dsimp only
    have start := Moves.ofChan s c (some { w0 with phase := .running })
    cases findMsg w0.message s with
    | none => exact start
    | some r =>
      dsimp only
      refine start.trans ?_
      cases locate r.chain w0.position with
      | none =>
        dsimp only
        split_ifs
        · exact (Moves.ofLine _ (LineUnit.withdraw_still _ _) (fun h => LineUnit.withdraw_sound h _)).trans (Moves.ofChan _ _ _)
        · exact Moves.ofChanDone _ _ _
      | some q =>
        dsimp only
        have ec := Moves.ofEnsureCopy c { w0 with phase := .running } q.1 (s.setChan c (some { w0 with phase := .running }))
        refine ec.trans ?_
        split_ifs <;> first
          | exact (Moves.ofRequest _ _).trans (Moves.ofHold _ _ _)
          | exact Moves.ofRequest _ _
          | exact Moves.ofHold _ _ _
          | exact .refl _
          | exact Moves.ofChanAbort _ _ _

theorem Moves.ofStart (c : Chan) (n position : Nat) (sinks : SinkSet) (trigger : ChTrigger) (starter : Starter) (s : State) :
    Moves s (startChan c n position sinks trigger starter s).1 := by
  unfold startChan
  dsimp only
  have a := (Moves.ofChan s c (some ⟨.pending, n, position, sinks, trigger, decide (trigger = .now), starter, none⟩)).trans
    (Moves.ofMarks _ n (f := fun r => { r with readers := r.readers + 1 }) fun _ => ⟨rfl, rfl, rfl, rfl⟩)
  split_ifs
  · exact a.trans (Moves.ofProceed _ _)
  · exact a

theorem Moves.ofTrigger (c : Chan) (t : ChTrigger) (s : State) : Moves s (triggerChan c t s).1 := by
  unfold triggerChan
  cases s.chan c with
  | none => exact .refl s
  | some w =>
    dsimp only
    split_ifs
    · exact (Moves.ofChan s c _).trans (Moves.ofProceed _ _)
    · exact .refl s

/-! ## The Call Sequencer -/

theorem Moves.ofHandControl (y : Symbol) (s : State) : Moves s (handControl y s) :=
  (Moves.ofLine s (l := { s.line with control := some y }) rfl id).trans (Moves.ofRequest _ _)

theorem Moves.ofWruAsk (s : State) : Moves s (wruAsk s) := (Moves.ofCalls s (by rfl)).trans (Moves.ofHandControl _ _)

theorem Moves.ofRestartIdle (s : State) : Moves s (restartIdle s) := .ite (Moves.ofCalls s (by rfl)) (.refl s)

theorem Moves.ofCaptureStop (s : State) : Moves s (captureStop s) := by
  unfold captureStop
  extract_lets got status c s1 d s2
  have a : Moves s s1 := (Moves.ofCalls s (by rfl)).trans (Moves.ofPost _ _)
  have b : Moves s1 s2 := Moves.ofCalls _ (by rfl)
  clear_value s2 d s1
  refine a.trans (.ite ?_ (.refl _))
  refine b.trans ?_
  split
  · exact .ite (.refl _) (Moves.ofMarks _ _ (by exact fun _ => ⟨rfl, rfl, rfl, rfl⟩))
  · exact .refl _

theorem attemptRule_same (limit : Nat) (cause : AutoCause) (r : Record) :
    (attemptRule limit cause r).number = r.number ∧ (attemptRule limit cause r).chain = r.chain ∧
      SameHead (attemptRule limit cause) r := by
  unfold SameHead attemptRule
  split_ifs <;> exact ⟨rfl, rfl, rfl, rfl⟩

theorem Moves.ofAutoFailCore (a : AutoSend) (cause : AutoCause) (s : State) : Moves s (autoFailCore a cause s) :=
  (Moves.ofMarks s _ fun r => attemptRule_same _ _ r).trans ((Moves.ofPost _ _).trans (Moves.ofCalls _ (by rfl)))

theorem Moves.ofAutoCut (s : State) : Moves s (autoCut s) := by
  unfold autoCut
  split
  · exact .refl s
  · exact .ite (Moves.ofAutoFailCore _ _ _) (.ite (Moves.ofCalls _ (by rfl)) (.refl s))

theorem Moves.ofClearRequest (cause : ClearCause) (s : State) : Moves s (clearRequest cause s) := by
  unfold clearRequest
  dsimp only
  split_ifs
  · exact (Moves.ofCalls s (by rfl)).trans ((Moves.ofPost _ _).trans ((Moves.ofCaptureStop _).trans (Moves.ofAutoCut _)))
  · exact (Moves.ofCalls s (by rfl)).trans ((Moves.ofPost _ _).trans (Moves.ofAutoCut _))
  · exact .refl s

theorem Moves.ofSeqWruAnswered (s : State) : Moves s (seqWruAnswered s) := by
  unfold seqWruAnswered
  split
  · exact .refl s
  · split
    · exact (Moves.ofCalls s (by rfl)).trans (Moves.ofHandControl _ _)
    · exact (Moves.ofCalls s (by rfl)).trans (Moves.ofClearRequest _ _)
    · exact .refl s

theorem Moves.ofAnswerBack (s : State) : Moves s (answerBack s) := by
  unfold answerBack
  split
  · split
    · exact (Moves.ofPost s _).trans (Moves.ofSeqWruAnswered _)
    · exact Moves.ofLine s (by rfl) id
  · exact Moves.ofLine s (by rfl) id
  · exact Moves.ofLine s (by rfl) id

theorem Moves.ofAutoHeader (a : AutoSend) (s : State) : Moves s (autoHeader a s) :=
  (Moves.ofCalls s (by rfl)).trans (Moves.ofAnswerBack _)

theorem Moves.ofAutoFail (a : AutoSend) (cause : AutoCause) (s : State) : Moves s (autoFail a cause s) :=
  (Moves.ofAutoFailCore a cause s).trans (Moves.ofClearRequest _ _)

theorem Moves.ofAutoCompare (a : AutoSend) (s : State) : Moves s (autoCompare a s) := by
  unfold autoCompare
  split
  · exact .refl s
  · exact .ite (Moves.ofAutoHeader a s) (Moves.ofAutoFail a _ s)

theorem Moves.ofCaptureEnd (s : State) : Moves s (captureEnd s) := by
  unfold captureEnd
  refine (Moves.ofCaptureStop s).trans ?_
  dsimp only
  split
  · exact .ite (Moves.ofAutoCompare _ _) (.refl _)
  · exact .refl _

theorem Moves.ofAutoReport (a : AutoSend) (r : Report) (s : State) : Moves s (autoReport a r s) := by
  unfold autoReport
  split
  · dsimp only
    refine Moves.trans ((Moves.ofMarks s a.message ?_).trans (Moves.ofPost _ _))
      (.ite (Moves.ofCalls _ (by rfl)) ((Moves.ofCalls _ (by rfl)).trans (Moves.ofHandControl _ _)))
    exact (by exact fun _ => ⟨rfl, rfl, rfl, rfl⟩)
  · exact Moves.ofAutoFail a _ s
  · exact Moves.ofAutoFailCore a _ s
  · exact Moves.ofAutoFail a _ s
  · exact Moves.ofAutoFail a _ s

theorem Moves.ofAutoBody (a : AutoSend) (s : State) : Moves s (autoBody a s) := by
  unfold autoBody
  split
  · exact Moves.ofAutoFail a _ s
  · extract_lets b c e
    have h : Moves s e.1 := (Moves.ofCalls s (by rfl)).trans (Moves.ofStart _ _ _ _ _ _ _)
    clear_value e
    refine h.trans ?_
    split
    · exact Moves.ofAutoReport _ _ _
    · exact .refl _

theorem Moves.ofCaptureBegin (s : State) : Moves s (captureBegin s) := Moves.ofCalls s (by rfl)

theorem Moves.ofControlTaken (y : Symbol) (s : State) : Moves s (controlTaken y s) := by
  unfold controlTaken
  split_ifs
  · exact (Moves.ofCalls s (by rfl)).trans (.ite (.refl _) (Moves.ofCaptureBegin _))
  · split
    · exact .refl s
    · split
      · exact (Moves.ofCalls s (by rfl)).trans (Moves.ofHandControl _ _)
      · exact Moves.ofAutoBody _ s
      · exact (Moves.ofCalls s (by rfl)).trans (Moves.ofHandControl _ _)
      · exact (Moves.ofCalls s (by rfl)).trans (Moves.ofAnswerBack _)
      · exact .refl s

theorem Moves.ofCollEnd (s : State) : Moves s (collEnd s) := by
  unfold collEnd
  split
  · exact .refl s
  · exact (Moves.ofPost s _).trans (Moves.ofCalls _ (by rfl))

theorem Moves.ofCollOutcome (n : Nat) (r : Report) (s : State) : Moves s (collOutcome n r s) := by
  unfold collOutcome
  cases r <;> first
    | exact (Moves.ofMarks s n (f := fun m => { m with delivery := .collected }) (by exact fun _ => ⟨rfl, rfl, rfl, rfl⟩)).trans
        (Moves.ofCalls _ (by rfl))
    | exact Moves.ofCalls _ (by rfl)
    | exact (Moves.ofMarks s n (f := fun m => { m with delivery := .held }) (by exact fun _ => ⟨rfl, rfl, rfl, rfl⟩)).trans
        (Moves.ofCalls _ (by rfl))

theorem Moves.ofCollTurns (list : List Nat) : ∀ s : State, Moves s (collTurns list s) := by
  induction list with
  | nil => exact Moves.ofCollEnd
  | cons n rest ih =>
    intro s
    unfold collTurns
    refine .ite (Moves.ofCollEnd s) ?_
    have turn (s0 : State) (a : Moves s s0) : Moves s (match findMsg n s0 with
      | none => collTurns rest s0
      | some r =>
        if collectable s0.calls.captured r then
          match idleChan s0 with
          | none =>
            collTurns rest (post (.collectionSkipped n) (s0.setCalls { s0.calls with
              coll := s0.calls.coll.map fun k => { k with skipped := k.skipped + 1 } }))
          | some c =>
            let s1 := updateMsg n (fun m => { m with delivery := .sending }) (s0.setCalls { s0.calls with
              coll := s0.calls.coll.map fun k => { k with current := some (n, c) } })
            let e := startChan c n 0 .justTransmitter .now .sequencer s1
            match e.2 with
            | none => e.1
            | some rep => if rep.isHeld then collEnd (collOutcome n rep e.1) else collTurns rest (collOutcome n rep e.1)
        else collTurns rest s0) := by
      split
      · exact a.trans (ih _)
      · refine .ite ?_ (a.trans (ih _))
        split
        · exact a.trans ((Moves.ofCalls _ (by rfl)).trans ((Moves.ofPost _ _).trans (ih _)))
        · next c _ =>
          extract_lets d s1 e
          have b : Moves s e.1 := a.trans ((Moves.ofCalls _ (by rfl)).trans ((Moves.ofMarks _ n
            (by exact fun _ => ⟨rfl, rfl, rfl, rfl⟩)).trans (Moves.ofStart _ _ _ _ _ _ _)))
          clear_value e
          split
          · exact b
          · exact .ite (b.trans ((Moves.ofCollOutcome _ _ _).trans (Moves.ofCollEnd _)))
              (b.trans ((Moves.ofCollOutcome _ _ _).trans (ih _)))
    exact turn _ (Moves.ofCalls s (by rfl))

theorem Moves.ofCollReport (n : Nat) (r : Report) (s : State) : Moves s (collReport n r s) := by
  unfold collReport
  dsimp only
  refine (Moves.ofCollOutcome n r s).trans (.ite (Moves.ofCollEnd _) ?_)
  split
  · exact Moves.ofCollTurns _ _
  · exact .refl _

theorem Moves.ofCollectionStart (s : State) : Moves s (collectionStart s) := by
  unfold collectionStart
  refine .ite ?_ (.refl s)
  split
  · exact Moves.ofPost s _
  · exact (Moves.ofCalls s (by rfl)).trans (Moves.ofCollTurns _ _)

theorem Moves.ofDrainTest (s : State) : Moves s (drainTest s) := .ite (Moves.ofCalls s (by rfl)) (.refl s)

theorem Moves.ofDrainReport (n : Nat) (r : Report) (s : State) : Moves s (drainReport n r s) := by
  unfold drainReport
  split
  · exact ((Moves.ofMarks s n (f := fun m => { m with printOwed := false }) (by exact fun _ => ⟨rfl, rfl, rfl, rfl⟩)).trans
      (Moves.ofPost _ _)).trans ((Moves.ofCalls _ (by rfl)).trans (Moves.ofDrainTest _))
  · exact .refl s
  · exact (Moves.ofCalls s (by rfl)).trans (Moves.ofDrainTest _)
  · exact (Moves.ofCalls s (by rfl)).trans (Moves.ofDrainTest _)

theorem Moves.ofSeqReport (c : Chan) (r : Report) (s : State) : Moves s (seqReport c r s) := by
  unfold seqReport
  split
  · exact .ite (Moves.ofAutoReport _ _ s) (.refl s)
  · split
    · exact .ite (Moves.ofCollReport _ _ s) (.refl s)
    · split
      · exact .ite (Moves.ofDrainReport _ _ s) (.refl s)
      · exact .refl s

theorem Moves.ofTold {c : Chan} {s : State} {e : State × Option Report} (h : Moves s e.1) : Moves s (told c e) := by
  unfold told
  split
  · exact h.trans (Moves.ofSeqReport _ _ _)
  · exact h

theorem Moves.ofHoldBoth (reason : HoldReason) (s : State) : Moves s (holdBoth reason s) :=
  (Moves.ofTold (Moves.ofHold _ _ s)).trans (Moves.ofTold (Moves.ofHold _ _ _))

theorem Moves.ofHoldForSink (c : Chan) (s : State) : Moves s (holdForSink c s) := by
  unfold holdForSink
  split
  · exact .ite (Moves.ofTold (Moves.ofHold _ _ s)) (.refl s)
  · exact .refl s

/-! ## Appending and closing -/

theorem Moves.ofWakeChan (c : Chan) (n : Nat) (s : State) : Moves s (wakeChan c n s) := by
  unfold wakeChan
  split
  · exact .ite (Moves.ofTold (Moves.ofProceed _ s)) (.refl s)
  · exact .refl s

theorem Moves.ofWake (n : Nat) (s : State) : Moves s (wake n s) := (Moves.ofWakeChan _ n s).trans (Moves.ofWakeChan _ n _)

/-- The blocks of a directory after a block joins the chain of the record that carries a number. -/
theorem blocksOf_join {d : List Record} {n b : Nat} {r : Record} (hr : r ∈ d) (hn : r.number = n)
    (w : (d.map (·.number)).Nodup) (k : ChainBlock) (hk : k.block = b) :
    (blocksOf (d.map (fun q => if q.number = n then { q with chain := q.chain ++ [k] } else q))).Perm (b :: blocksOf d) := by
  induction d with
  | nil => cases hr
  | cons q d ih =>
    simp only [List.map_cons, List.nodup_cons] at w
    simp only [blocksOf, List.map_cons, List.flatMap_cons] at ih ⊢
    rcases List.mem_cons.mp hr with e | hr
    · subst e
      have tail : d.map (fun q => if q.number = n then { q with chain := q.chain ++ [k] } else q) = d := by
        conv_rhs => rw [← List.map_id d]
        refine List.map_congr_left fun x hx => ?_
        rw [if_neg]
        · rfl
        · exact fun e => w.1 (hn.trans e.symm ▸ List.mem_map_of_mem hx)
      rw [tail, if_pos hn]
      simp only [List.map_append, List.map_cons, List.map_nil, hk, List.append_assoc, List.singleton_append]
      exact List.perm_middle
    · have ne : q.number ≠ n := fun e => w.1 (e.trans hn.symm ▸ List.mem_map_of_mem hr)
      rw [if_neg ne]
      exact ((ih hr w.2).append_left _).trans List.perm_middle

/-- The head of the free queue joins the chain of a message (R88). -/
theorem Store.joinBlock_sound {t u : Store} (w : t.Sound) {n b : Nat} {rest : List Nat} {r : Record} (hr : t.find n = some r)
    (hfree : t.free = b :: rest) (k : ChainBlock) (hk : k.block = b) (h1 : u.free = rest) (h2 : u.retired = t.retired)
    (h3 : u.directory = t.directory.map (fun q => if q.number = n then { q with chain := q.chain ++ [k] } else q))
    (h4 : u.counter = t.counter) {v : Store} (wv : v.Sound) (h5 : u.memory = v.memory) : u.Sound where
  blocks := by
    have m := Store.find_mem hr
    have p := blocksOf_join m.1 m.2 w.distinct k hk
    rw [h1, h2, h3]
    refine List.Perm.trans ((p.append_left _).trans List.perm_middle) ?_
    have := w.blocks
    rw [hfree] at this
    exact this
  distinct := by
    rw [h3, map_numbers]
    · exact w.distinct
    · intro q _
      split_ifs <;> rfl
  numbers := by
    intro q hq
    rw [h3] at hq
    obtain ⟨p, hp, rfl⟩ := List.mem_map.mp hq
    have := w.numbers p hp
    split_ifs <;> exact this
  counter := h4 ▸ w.counter
  room := by
    rw [h3, List.length_map]
    exact w.room
  canonical := by
    rw [h5]
    exact wv.canonical
  within := by
    rw [h5]
    exact wv.within

/-- A record changed in a store that has just been put in place. -/
theorem updateMsg_setStore (n : Nat) (f : Record → Record) (s : State) (t : Store) :
    updateMsg n f (s.setStore t) = s.setStore (t.update n f) := rfl

theorem Moves.ofAppendNew (n : Nat) (y : Symbol) (s : State) : Moves s (appendNew n y s).1 := by
  unfold appendNew
  split
  · exact .refl s
  · next r hr =>
    split_ifs
    · split
      · exact .refl s
      · next b rest hfree =>
        refine Moves.trans ?_ (Moves.ofWake _ _)
        rw [updateMsg_setStore]
        refine Moves.ofStore s ?_ (fun w => ?_) (fun _ w => ?_)
        · rw [Store.update_still, Store.writeBlock_still]
          rfl
        · have wb := Store.writeBlock_sound w (b := b) (w.free_lt (by rw [hfree]; simp)) (bytes := [y.toByte])
            (by simp)
          exact Store.joinBlock_sound w hr hfree ⟨b, 1, false⟩ rfl (by simp only [Store.update, Store.writeBlock])
            (by simp only [Store.update, Store.writeBlock]) (by simp only [Store.update, Store.writeBlock])
            (by simp only [Store.update, Store.writeBlock]) wb (by simp only [Store.update, Store.writeBlock])
        · have free : ({ s.store with free := rest } : Store).SlotsAgree := w.of_same rfl rfl rfl rfl rfl
          exact Store.update_slots (Store.writeBlock_slots free b _) (by exact fun _ _ _ => ⟨rfl, rfl, rfl⟩)
    · exact .refl s

/-- A store that is sound because the stores before were. -/
theorem Moves.ofStoreAfter {s t : State} (a : Moves s t) {u : Store} (e : u.still = t.store.still)
    (h : s.store.Sound → t.store.Sound → u.Sound) (k : t.store.SlotsAgree → u.SlotsAgree) : Moves s (t.setStore u) where
  sound := fun w => h w (a.sound w)
  slots := fun w v => k (a.slots w v)
  bounded := fun b => { a.bounded b with }
  sGrows := a.sGrows
  xGrows := a.xGrows
  still := by
    rw [← a.still]
    simp only [State.still, State.setStore, e]

theorem openLast_fill {chain : List ChainBlock} {b : ChainBlock} (h : openLast chain = some b) :
    b ∈ chain ∧ b.fill < Config.blockSize := by
  unfold openLast at h
  cases e : chain.getLast? with
  | none => simp [e] at h
  | some k =>
    simp only [e] at h
    split_ifs at h with q
    cases h
    exact ⟨List.mem_of_getLast? e, q.2⟩

theorem Moves.ofAppend (n : Nat) (y : Symbol) (s : State) : Moves s (appendSymbol n y s).1 := by
  unfold appendSymbol
  split
  · exact .refl s
  · next r hr =>
    split
    · exact Moves.ofAppendNew n y s
    · next b hb =>
      dsimp only
      have rd := Moves.ofReadBlock n (r.chain.length - 1) .append none s
      split_ifs
      · exact rd.trans (Moves.ofAppendNew n y _)
      · refine Moves.trans ?_ (Moves.ofWake _ _)
        refine Moves.trans ?_ (Moves.ofBlockChanged _ _ _ _ _)
        have ob := openLast_fill hb
        rw [updateMsg_setStore]
        refine rd.ofStoreAfter (u := ((readBlock n (r.chain.length - 1) .append none s).state.store.writeBlock b.block _).update n _)
          rfl (fun w v => ?_) (fun w => ?_)
        · refine Store.update_sound (Store.writeBlock_sound v (w.block_lt (Store.find_mem hr).1 ob.1) ?_) fun q _ _ => ⟨rfl, ?_⟩
          · simp only [List.length_append, List.length_take, List.length_singleton]
            omega
          · exact map_modify_same (g := ChainBlock.block) (f := fun k => { k with fill := k.fill + 1 }) (fun _ => rfl) _ _
        · exact Store.update_slots (Store.writeBlock_slots w b.block _) (by exact fun _ _ _ => ⟨rfl, rfl, rfl⟩)

end Sys2Proof.Machine
end

