-- ==== Sys2Proof/Laws/DeliveryMoves.lean ====
section
/-! SUPPORT. Closing a message, receiving into the store, deliveries and the transmitter only move traffic; the end of a call
keeps what every operation keeps. -/

namespace Sys2Proof.Machine

/-- The transmit side of the Line Unit goes on with the arbiter as it is. -/
theorem Moves.ofSend (s : State) {l : LineUnit} (h : l.still = s.line.still := by rfl) (hr : l.requests = s.line.requests := by rfl)
    (hh : l.holder = s.line.holder := by rfl) : Moves s (s.setLine l) :=
  Moves.ofLine s h fun a => by
    unfold LineUnit.arbiterSound at a ⊢
    rw [hr, hh]
    exact a

theorem Moves.ofAppendAll (n : Nat) (ys : List Symbol) : ∀ s : State, Moves s (appendAll n ys s).1 := by
  induction ys with
  | nil => exact fun s => .refl s
  | cons y ys ih =>
    intro s
    unfold appendAll
    dsimp only
    split_ifs
    · exact (Moves.ofAppend n y s).trans (ih _)
    · exact Moves.ofAppend n y s

theorem Store.close_still (t : Store) (h : Option Holder) (n : Nat) (f : Record → Record) :
    ((match h with
      | some h => t.setSlot h none
      | none => t).update n f).still = t.still := by
  rw [Store.update_still]
  cases h with
  | none => rfl
  | some h => exact Store.setSlot_still t h none

theorem Moves.ofClose (n : Nat) {st : MsgState} (hst : st ≠ .opened) (s : State) : Moves s (closeMessage n st s) := by
  unfold closeMessage
  split
  · exact .refl s
  · next r hr =>
    dsimp only
    refine Moves.trans (Moves.trans ?_ (Moves.ofPost _ _)) (Moves.ofWake _ _)
    exact Moves.ofStore s (Store.close_still _ _ _ _) (fun w => Store.close_sound w _ _ _)
      (fun _ w => Store.close_slots w hr hst _)

theorem Moves.ofCloseLine {st : MsgState} (hst : st ≠ .opened) (s : State) : Moves s (closeLine st s) := by
  unfold closeLine
  split
  · exact Moves.ofClose _ hst s
  · exact .refl s

theorem Moves.ofReceiveInto (n : Nat) (y : Symbol) (p : Nat) (exceeds : Bool) (s : State) :
    Moves s (receiveInto n y p exceeds s) := by
  unfold receiveInto
  extract_lets e was s0 s1 s2
  have a : Moves s e.1 := Moves.ofAppend n y s
  clear_value e was
  have b : Moves s s1 := by
    dsimp only [s1]
    split_ifs
    · exact a
    · exact a.trans (Moves.ofMarks _ _ (by exact fun _ => ⟨rfl, rfl, rfl, rfl⟩))
    · exact (a.trans (Moves.ofMarks _ _ (by exact fun _ => ⟨rfl, rfl, rfl, rfl⟩))).trans (Moves.ofPost _ _)
  clear_value s1
  have c : Moves s s2 := b.trans (Moves.ofMarks _ _ (by exact fun _ => ⟨rfl, rfl, rfl, rfl⟩))
  clear_value s2
  split
  · exact c
  · exact .ite (c.trans (Moves.ofClearRequest _ _)) c

theorem Moves.ofStoreReceive (y : Symbol) (p : Nat) (exceeds : Bool) (s : State) : Moves s (storeReceive y p exceeds s) := by
  unfold storeReceive
  split
  · exact Moves.ofReceiveInto _ _ _ _ s
  · next hslot =>
    split_ifs with room hm
    · refine Moves.trans (Moves.trans ?_ (Moves.ofPost _ _)) (Moves.ofReceiveInto _ _ _ _ _)
      refine Moves.ofStore s (by rfl) (fun w => ?_) (fun w v => ?_)
      · exact { Store.createMsg_sound w room .received .line with }
      · have f := Store.nextFree_fresh w.counter (by simp only [Config.directorySize] at room; omega)
        exact (Store.createMsg_slots (h := .line) v hslot f.2 .received).of_same rfl rfl rfl rfl rfl
    · exact Moves.ofStore s (by rfl) (fun w => { w with }) (fun _ w => w.of_same rfl rfl rfl rfl rfl)
    · refine Moves.trans ?_ (Moves.ofPost _ _)
      exact Moves.ofStore s (by rfl) (fun w => { w with }) (fun _ w => w.of_same rfl rfl rfl rfl rfl)

/-! ## Deliveries -/

theorem Moves.ofOfferPrinter (y : Symbol) (s : State) : Moves s (offerPrinter y s).1 := by
  unfold offerPrinter
  split_ifs with h
  · exact Moves.ofPrint s y h
  · exact Moves.ofFlag s _

theorem Moves.ofOfferPunch (y : Symbol) (s : State) : Moves s (offerPunch y s).1 := by
  unfold offerPunch
  split_ifs with h
  · exact Moves.ofPunchRow s y h
  · exact Moves.ofFlag s _

theorem Moves.ofMarkOwed (a b : Bool) (s : State) : Moves s (markOwed a b s) := by
  unfold markOwed
  split
  · exact Moves.ofMarks s _ (by exact fun _ => ⟨rfl, rfl, rfl, rfl⟩)
  · exact .refl s

theorem Moves.ofSentDeliver (y : Symbol) (s : State) : Moves s (sentDeliver y s) := by
  unfold sentDeliver
  extract_lets a b
  have ha : Moves s a.1 := by
    dsimp only [a]
    split_ifs
    · exact Moves.ofOfferPrinter y s
    · exact .refl s
  clear_value a
  have hb : Moves s b.1 := by
    dsimp only [b]
    split_ifs
    · exact ha.trans (Moves.ofOfferPunch y _)
    · exact ha
  clear_value b
  exact (hb.trans (Moves.ofMarkOwed _ _ _)).trans (Moves.ofRestartIdle _)

theorem Moves.ofReceiveDeliver (y : Symbol) (p : Nat) (exceeds : Bool) (s : State) :
    Moves s (receiveDeliver y p exceeds s) := by
  unfold receiveDeliver
  extract_lets set a b t
  have ha : Moves s a.1 := by
    dsimp only [a]
    split_ifs
    · exact Moves.ofOfferPrinter y s
    · exact .refl s
  clear_value a
  have hb : Moves s b.1 := by
    dsimp only [b]
    split_ifs
    · exact ha.trans (Moves.ofOfferPunch y _)
    · exact ha
  clear_value b
  have ht : Moves s t := by
    dsimp only [t]
    split_ifs
    · exact hb.trans (Moves.ofStoreReceive y p exceeds _)
    · exact hb
  clear_value t
  exact (ht.trans (Moves.ofMarkOwed _ _ _)).trans (Moves.ofRestartIdle _)

/-! ## The keyboard's head -/

theorem Moves.ofStartRelease (s : State) : Moves s (startRelease s) := .ite (Moves.ofSend s) (.refl s)

theorem Moves.ofWithdraw (s : State) (r : Requester) : Moves s (s.setLine (s.line.withdraw r)) :=
  Moves.ofLine s (LineUnit.withdraw_still _ _) fun h => LineUnit.withdraw_sound h _

theorem Moves.ofSettleKeyboard (s : State) : Moves s (settleKeyboard s) := .ite (Moves.ofRequest s _) (Moves.ofWithdraw s _)

theorem Moves.ofDiscardHeads (s : State) : Moves s (discardHeads s) := by
  refine Moves.trans (Moves.trans ?_ (Moves.ofBell _)) (Moves.ofStartRelease _)
  exact (Moves.ofTypeahead s [] fun _ => Nat.zero_le _).trans (Moves.ofWithdraw _ .keyboard)

theorem Moves.ofOfferHead (s : State) : Moves s (offerHead s) := .ite (Moves.ofDiscardHeads s) (.refl s)

theorem Moves.ofSinkEntered (s : State) : Moves s (sinkEntered s) :=
  (Moves.ite (Moves.ofDiscardHeads s) (.refl s)).trans ((Moves.ofHoldForSink _ _).trans (Moves.ofHoldForSink _ _))

theorem Moves.ofKeyboardStore (y : Symbol) (s : State) : Moves s (keyboardStore y s) := by
  unfold keyboardStore
  split
  · exact .refl s
  · dsimp only
    exact .ite (Moves.ofAppend _ y s) ((Moves.ofAppend _ y s).trans (Moves.ofBell _))

theorem startRelease_printer (s : State) : (startRelease s).printer = s.printer := by
  unfold startRelease
  split_ifs <;> rfl

theorem startRelease_punch (s : State) : (startRelease s).punch = s.punch := by
  unfold startRelease
  split_ifs <;> rfl

/-- The head of a typeahead leaves it. -/
theorem Moves.ofKeyboardLeave (row : SinkSet) {y : Symbol} {rest : List Symbol} {s : State} (h : s.kb.typeahead = y :: rest)
    (ready : keyboardReady row s = true) : Moves s (keyboardLeave row y rest s) := by
  unfold keyboardLeave
  extract_lets k s1
  have a : Moves s (startRelease (s.setKb { s.kb with typeahead := rest })) :=
    (Moves.ofTypeahead s rest fun b => by rw [h, List.length_cons] at b; omega).trans (Moves.ofStartRelease _)
  have b : Moves s s1 := a.trans (Moves.ofSinksTake _ _ _ (by
    simp only [keyboardReady, Bool.and_eq_true] at ready
    have r := ready.1
    unfold sinksReady at r ⊢
    rw [startRelease_printer, startRelease_punch]
    exact r))
  clear_value s1
  exact .ite (b.trans (Moves.ofKeyboardStore _ _)) b

/-! ## The transmitter -/

theorem Moves.ofPutChar (inserted : Bool) (code : BitVec 5) (y : Symbol) (s : State) : Moves s (putChar inserted code y s) :=
  (Moves.ofSend s).trans (Moves.ofSentDeliver _ _)

theorem Moves.ofTakeText (s : State) : Moves s (takeText s) := by
  unfold takeText
  split
  · exact .refl s
  · dsimp only
    exact .ite (Moves.ofPutChar _ _ _ s) ((Moves.ofSend s).trans (Moves.ofPutChar _ _ _ _))

theorem Moves.ofTakeKeyboard (s : State) : Moves s (takeKeyboard s) := by
  unfold takeKeyboard
  split
  · exact .refl s
  · next y ys h =>
    dsimp only
    split_ifs with r e
    · exact Moves.ofPutChar _ _ _ s
    · rw [Bool.and_eq_true] at r
      exact ((Moves.ofKeyboardLeave _ h r.2).trans (Moves.ofPutChar _ _ _ _)).trans (Moves.ofOfferHead _)
    · exact Moves.ofDiscardHeads s
    · exact .refl s

theorem Moves.ofAdvance (c : Chan) (s : State) : Moves s (advanceChan c s) := by
  unfold advanceChan
  split
  · exact .refl s
  · exact Moves.ofTold ((Moves.ofChan s c _).trans (Moves.ofProceed _ _))

theorem Moves.ofTakeChan (c : Chan) (s : State) : Moves s (takeChan c s) := by
  unfold takeChan
  split
  · exact .refl s
  · split
    · exact .refl s
    · dsimp only
      split_ifs with h e
      · exact Moves.ofPutChar _ _ _ s
      · exact ((Moves.ofSinksTake s _ _ h.2.2).trans (Moves.ofPutChar _ _ _ _)).trans (Moves.ofAdvance _ _)
      · exact .refl s

theorem Moves.ofTakeControl (s : State) : Moves s (takeControl s) := by
  unfold takeControl
  split
  · exact .refl s
  · dsimp only
    split_ifs
    · exact Moves.ofPutChar _ _ _ s
    · exact (((Moves.ofSend s).trans (Moves.ofLeave _ _)).trans
        (Moves.ofPutChar _ _ _ _)).trans (Moves.ofControlTaken _ _)

theorem Moves.ofTakeHolder (s : State) : Moves s (takeHolder s) := by
  unfold takeHolder
  refine .ite ?_ (.refl s)
  split
  · exact .refl s
  · exact Moves.ofTakeKeyboard s
  · exact Moves.ofTakeChan _ s
  · exact Moves.ofTakeControl s

theorem Moves.ofTakeNext (s : State) : Moves s (takeNext s) := by
  unfold takeNext
  split
  · exact Moves.ofTakeText s
  · exact Moves.ofTakeHolder s
  · refine .ite ?_ (.refl s)
    split
    · exact (Moves.ofSend s).trans (Moves.ofTakeText _)
    · exact (((Moves.ofSend s).trans (Moves.ofPost _ _)).trans (Moves.ofSeqWruAnswered _)).trans
        (Moves.ofTakeHolder _)

/-- What every event that may make a character available ends with only moves traffic (R35, R53). -/
theorem Moves.ofKick (s : State) : Moves s (kick s) := by
  unfold kick
  exact .ite (((Moves.ofSettleKeyboard s).trans (Moves.ofTakeNext _)).trans (Moves.ofSettleKeyboard _)) (Moves.ofSettleKeyboard s)

theorem Moves.ofCharEnd (s : State) : Moves s (charEnd s) := by
  unfold charEnd
  extract_lets l s1
  have a : Moves s s1 := Moves.ofSend s
  clear_value s1
  split_ifs
  · exact (((a.trans (Moves.ofSend s1)).trans (Moves.ofPost _ _)).trans (Moves.ofSeqWruAnswered _)).trans
      (Moves.ofKick _)
  · exact a.trans (Moves.ofKick _)

/-! ## The end of a call (R168) -/

theorem Keeps.ofCallEnd (cause : CallCause) (s : State) : Keeps s (callEnd cause s) := by
  unfold callEnd
  extract_lets s1 c2 s2 l3 s3 s4 s5 d6 k6 s6 c7 s7
  have h1 : Moves s s1 := .ite (Moves.ofCaptureStop s) (.refl s)
  clear_value s1
  have h2 : Keeps s s2 := h1.toKeeps.trans (Keeps.ofCalls _ _)
  clear_value s2
  have h3 : Keeps s s3 := h2.trans ((Moves.ofSend s2).trans
    (Moves.ofLeave _ _)).toKeeps
  clear_value s3
  have h4 : Keeps s s4 := h3.trans (Moves.ofCloseLine (by decide) _).toKeeps
  clear_value s4
  have h5 : Keeps s s5 := h4.trans ((Moves.ofHoldBoth _ _).trans (Moves.ofAutoCut _)).toKeeps
  clear_value s5
  have h6 : Keeps s s6 := h5.trans ((Keeps.ofDist s5 (d := { s5.dist with storeAdd := false }) id id).trans
    (Keeps.ofKb _ (k := { s5.kb with callLock := false }) id))
  clear_value s6
  have h7 : Keeps s s7 := h6.trans (Keeps.ofCalls _ _)
  clear_value s7
  exact h7.trans ((Moves.ofPost _ _).trans (Moves.ofDrainTest _)).toKeeps

end Sys2Proof.Machine
end

