-- ==== Sys2Proof/Laws/Kick.lean ====
section
/-! SUPPORT. What kick leaves: everything still, and, at rest or while a character is in flight and nothing is typed, everything. -/

namespace Sys2Proof.Machine

/-- A requester that does not stand in the list withdraws from nothing. -/
theorem LineUnit.withdraw_absent {l : LineUnit} {r : Requester} (h : r ∉ l.requests) : l.withdraw r = l := by
  unfold LineUnit.withdraw
  have : l.requests.filter (fun q => q ≠ r) = l.requests :=
    List.filter_eq_self.mpr fun q hq => by simpa using fun e : q = r => h (e ▸ hq)
  rw [this]

@[simp] theorem LineUnit.pass_txChar (l : LineUnit) : l.pass.txChar = l.txChar := by
  unfold LineUnit.pass
  split_ifs
  · split <;> rfl
  · rfl

@[simp] theorem LineUnit.request_txChar (l : LineUnit) (r : Requester) : (l.request r).txChar = l.txChar := by
  unfold LineUnit.request
  split_ifs
  · rfl
  · rw [LineUnit.pass_txChar]

/-- With nothing typed and KEYBOARD not in the list, KEYBOARD has its place in the arbiter (R53). -/
theorem settleKeyboard_absent {s : State} (h1 : s.kb.typeahead = []) (h2 : .keyboard ∉ s.line.requests) :
    settleKeyboard s = s := by
  unfold settleKeyboard
  rw [if_neg (fun h => h.1 h1), LineUnit.withdraw_absent h2]
  rfl

/-- A character is in flight: the transmitter takes nothing (R35). -/
theorem kick_inFlight {s : State} (h : s.line.txChar ≠ none) : kick s = settleKeyboard s := by
  unfold kick
  have : (settleKeyboard s).line.txChar = s.line.txChar := by
    unfold settleKeyboard
    split_ifs
    · exact s.line.request_txChar _
    · rfl
  dsimp only
  rw [this, if_neg h]

/-- Transmit enable is OFF and no answer-back text is in progress: a free transmitter takes nothing (R36). -/
theorem takeNext_disabled {s : State} (h1 : s.line.txEnable = false) (h2 : s.line.abState ≠ .sending) : takeNext s = s := by
  unfold takeNext takeHolder
  cases e : s.line.abState
  · simp [h1]
  · simp [h1]
  · exact absurd e h2

theorem kick_engaged {s : State} (h : s.Engaged) : kick s = s := by
  obtain ⟨h1 | ⟨h1, h2⟩, h3, h4⟩ := h
  · rw [kick_inFlight h1, settleKeyboard_absent h3 h4]
  · unfold kick
    simp only [settleKeyboard_absent h3 h4, takeNext_disabled h1 h2, ite_self]

/-- At rest nothing is taken and nothing offered (R35, R53). -/
theorem kick_resting {s : State} (h : s.Resting) : kick s = s := by
  obtain ⟨h1, h2, h3, h4⟩ := h
  have a : settleKeyboard s = s := settleKeyboard_absent h1 (by simp [h2])
  have b : takeNext s = s := by
    unfold takeNext takeHolder
    simp only [h4, h3]
    split_ifs <;> rfl
  unfold kick
  simp only [a, b]
  split_ifs <;> rfl

/-- A command that ends in kick leaves what it hands to kick. -/
theorem leaves_of_kick {c : Instr} {s u : State} (h : exec c s = .next (kick u)) : Leaves c s u :=
  ⟨_, h, (Moves.ofKick u).still, fun r => r.elim kick_resting kick_engaged⟩

end Sys2Proof.Machine
end

