-- ==== Sys2Proof/Laws/Lines.lean ====
section
/-! SUPPORT. The lines of a port and the dots of the glyphs: bytes clocked in bit by bit read back as those bytes, each glyph is its
own, and a PROGRAM that is looked at twice has not gone back. -/

namespace Sys2Proof.Machine

/-- Each printable meaning has its own glyph (R133). -/
theorem glyph_injective {c d : BitVec 5} {f g : Bool} (h : Config.glyph c f = Config.glyph d g) : c = d ∧ f = g := by
  have e : Config.glyphNumber c f = Config.glyphNumber d g :=
    Config.glyphTable.injective ((Equiv.swap (Config.glyphTable 64) Config.mutilationGlyph).injective h)
  unfold Config.glyphNumber at e
  have hc := congrArg (BitVec.extractLsb' 0 5) e
  have hf := congrArg (fun x => x.getLsbD 5) e
  have bits (b : Bool) (x : BitVec 5) : ((BitVec.ofBool b ++ x).zeroExtend 35).extractLsb' 0 5 = x
      ∧ ((BitVec.ofBool b ++ x).zeroExtend 35).getLsbD 5 = b := by
    revert b x
    decide
  rw [(bits f c).1, (bits g d).1] at hc
  rw [(bits f c).2, (bits g d).2] at hf
  exact ⟨hc, hf⟩

/-- The mutilation glyph matches no glyph of the code table (R17, R133). -/
theorem glyph_ne_mutilation (c : BitVec 5) (f : Bool) : Config.glyph c f ≠ Config.mutilationGlyph := by
  intro h
  have e : Config.glyphTable (Config.glyphNumber c f) = Config.glyphTable 64 := by
    have := congrArg (Equiv.swap (Config.glyphTable 64) Config.mutilationGlyph) h
    rw [Config.glyph, Equiv.swap_apply_self, Equiv.swap_apply_right] at this
    exact this
  have n := Config.glyphTable.injective e
  clear h e
  revert c f
  unfold Config.glyphNumber
  decide

/-- The mutilation glyph's dots (R133). -/
theorem mutilationGlyph_dots : ∀ row ∈ List.range' 1 7, ∀ col ∈ List.range' 1 5,
    dotAt Config.mutilationGlyph row col = (row % 2 == col % 2) := by decide

/-- The bits of a run of bytes make those bytes (R190). -/
theorem bytesOfBits_bits (bytes : List Byte) : bytesOfBits (bitsOfBytes bytes) = bytes := by
  induction bytes with
  | nil => rfl
  | cons b bs ih =>
    have e : byteOfBits (b.getLsbD 7) (b.getLsbD 6) (b.getLsbD 5) (b.getLsbD 4) (b.getLsbD 3) (b.getLsbD 2) (b.getLsbD 1)
        (b.getLsbD 0) = b := by
      revert b
      decide
    simp only [bitsOfBytes, List.flatMap_cons, List.cons_append, List.nil_append, bytesOfBits, e]
    exact congrArg _ ih

/-- A run of bits clocked in joins the transaction, and clock has fallen as often (R190). -/
theorem clockBits_transfer (p : Port) (bits : List Bool) : ∀ {s : State} {t : Transfer}, (s.port p).transfer = some t →
    clockBits p bits s = s.setPort p { s.port p with transfer := some ⟨t.bitsIn ++ bits, t.falls + bits.length⟩ } := by
  induction bits with
  | nil =>
    intro s t h
    simp only [clockBits, List.append_nil, List.length_nil, Nat.add_zero]
    conv_lhs => rw [← State.setPort_self s p]
    congr 1
    rw [show s.port p = { s.port p with transfer := (s.port p).transfer } from rfl, h]
  | cons b bs ih =>
    intro s t h
    have e : clockBit p b s = s.setPort p { s.port p with transfer := some ⟨t.bitsIn ++ [b], t.falls + 1⟩ } := by
      simp [clockBit, clockFalls, clockRises, h]
    have k : ((clockBit p b s).port p).transfer = some ⟨t.bitsIn ++ [b], t.falls + 1⟩ := by rw [e, State.setPort_port]
    rw [clockBits, ih k, e]
    simp [Nat.add_left_comm, Nat.add_comm]

end Sys2Proof.Machine
end

