-- ==== Sys2Proof/Tests/Slice0.lean ====
section
/-! SUPPORT. The model's own tests: an ill-formed term for each check of WellFormed, requests written out from the command code
table, the manual's worked examples one step at a time, and for every statement with hypotheses states that meet them. -/

namespace Sys2Proof.Tests

open Sys2Proof Sys2Proof.Machine

/-! ## WellFormed refuses -/

theorem test_wf_command_as_malformed_request : Instr.wellFormed (.malformedRequest .s [0x01, 0]) = false := by decide
theorem test_wf_one_byte_is_no_request : Instr.wellFormed (.malformedRequest .s [0x01]) = false := by decide
theorem test_wf_malformed_request : Instr.wellFormed (.malformedRequest .s [0x30, 2, 0, 0]) = true := by decide
theorem test_wf_pattern_of_nine : Instr.wellFormed (.setTrigger .s 0 1 0 (List.replicate 9 0x7F)) = false := by decide
theorem test_wf_no_assignment : Instr.wellFormed (.loadKeymap .s 0 0 []) = false := by decide
theorem test_wf_assignments_33 : Instr.wellFormed (.loadKeymap .s 0 0 (List.replicate 33 (0, 0))) = false := by decide
theorem test_wf_no_text : Instr.wellFormed (.appendText .s 1 []) = false := by decide
theorem test_wf_text_of_33 : Instr.wellFormed (.appendText .s 1 (List.replicate 33 0x21)) = false := by decide
theorem test_wf_delivery_of_43 : Instr.wellFormed (.setDelivery .s 1 3 0 (List.replicate 30 0x21) (List.replicate 7 1)) = false := by
  decide
theorem test_wf_no_identity_text : Instr.wellFormed (.programSlot .s true 0 0 []) = false := by decide
theorem test_wf_identity_text_of_21 : Instr.wellFormed (.programSlot .s true 0 0 (List.replicate 21 0x21)) = false := by decide
theorem test_wf_transition_at_slot_0 : Instr.wellFormed (.timedTransition 0) = false := by decide
theorem test_wf_transition_at_slot_416 : Instr.wellFormed (.timedTransition 416) = false := by decide

/-! ## Requests, byte by byte from the command code table (R190, R192) -/

/-- The command a transaction at the X-port carries, with the break timer at 7 ms and IDENTITY WRITE ENABLE high. -/
def taken (bytes : List Byte) : Request := frameRequest .x ⟨7, true⟩ bytes

/-- The three transactions of the worked example of R183. -/
theorem test_request_call_out : taken [0x71, 0] = .command (.callOut .x) := by decide
theorem test_request_auto_send : taken [0x73, 2, 0, 88] = .command (.autoSend .x 88) := by decide
theorem test_request_nop_padded : taken [0x01, 0, 0, 0, 0, 0] = .command (.nop .x) := by decide

theorem test_request_set_event_mask : taken [0x04, 6, 0x02, 0, 0, 0, 0x80, 0] = .command (.setEventMask .x 0x8000000002) := by decide
theorem test_request_set_clock : taken [0x06, 4, 1, 2, 3, 4] = .command (.setClock .x 0x01020304) := by decide
theorem test_request_configure_line : taken [0x10, 9, 4, 0, 0, 0x01, 0x2C, 0, 0, 0, 0]
    = .command (.configureLine .x 4 0 0 300 0 0 0 0 7) := by decide
theorem test_request_route : taken [0x18, 3, 0, 1, 12] = .command (.route .x 0 1 12) := by decide
theorem test_request_set_trigger : taken [0x19, 5, 3, 1, 5, 0x30, 0x7F] = .command (.setTrigger .x 3 1 5 [0x30, 0x7F]) := by decide
theorem test_request_load_keymap : taken [0x20, 6, 1, 63, 1, 0x34, 3, 12]
    = .command (.loadKeymap .x 1 63 [(1, 0x34), (3, 12)]) := by decide
theorem test_request_append_text : taken [0x31, 4, 0x01, 0x02, 0x23, 0x10] = .command (.appendText .x 258 [0x23, 0x10]) := by decide
theorem test_request_read_text : taken [0x33, 5, 0, 9, 0x01, 0x00, 32] = .command (.readText .x 9 256 32) := by decide
theorem test_request_read_record : taken [0x34, 4, 2, 0, 0, 1] = .command (.readRecord .x 2 0 1) := by decide
theorem test_request_set_delivery : taken [0x35, 9, 0, 9, 7, 1, 2, 0x23, 0x7F, 1, 5]
    = .command (.setDelivery .x 9 7 1 [0x23, 0x7F] [5]) := by decide
theorem test_request_start_channel : taken [0x40, 7, 1, 0, 9, 0, 32, 3, 2] = .command (.startChannel .x 1 9 32 3 2) := by decide
theorem test_request_set_format : taken [0x50, 6, 0x1F, 69, 10, 2, 1, 0] = .command (.setFormat .x 0x1F 69 10 2 1 0) := by decide
theorem test_request_punch_feed : taken [0x58, 2, 0x01, 0x00] = .command (.punchFeed .x 256) := by decide
theorem test_request_program_slot : taken [0x61, 4, 7, 18, 0x23, 0x50] = .command (.programSlot .x true 7 18 [0x23, 0x50]) := by decide
theorem test_request_configure_answering : taken [0x76, 11, 0xFF, 1, 1, 5, 0x02, 0x58, 0, 255, 9, 1, 0]
    = .command (.configureAnswering .x 0xFF 1 1 5 600 255 9 1 0) := by decide

/-- A length outside its range, a count byte that disagrees, a code the table does not give, bytes cut short (R182, R190). -/
theorem test_request_malformed : taken [0x20, 5, 0, 0, 1, 2, 3] = .malformed 0x20
    ∧ taken [0x35, 6, 0, 9, 7, 1, 2, 0] = .malformed 0x35 ∧ taken [0x00, 0] = .malformed 0x00
    ∧ taken [0x31, 3, 0, 9] = .malformed 0x31 ∧ taken [0x31] = .nothing := by decide

/-! ## One step, from the manual's worked examples -/

/-- The state after a command; the state before where none follows. -/
def after (c : Instr) (s : State) : State := match exec c s with
  | .next t => t
  | _ => s

/-- The state after reset. -/
def r0 : State := State.reset

/-- A symbol of each class. -/
def sN (c : BitVec 5) : Machine.Symbol := ⟨c, .neutral, false⟩
def sL (c : BitVec 5) : Machine.Symbol := ⟨c, .letters, false⟩
def sF (c : BitVec 5) : Machine.Symbol := ⟨c, .figures, false⟩

/-- R10 and R11: the seven arrivals of "a received sequence", and what RX-USOS changes at the fourth. -/
theorem test_received_sequence :
    classify .letters false 20 true = (sL 20, .letters) ∧ classify .letters false 30 true = (sN 30, .figures)
    ∧ classify .figures false 20 true = (sF 20, .figures) ∧ classify .figures false 16 true = (sN 16, .figures)
    ∧ classify .figures false 31 false = (⟨31, .figures, true⟩, .figures) ∧ classify .figures false 7 true = (sF 7, .figures)
    ∧ classify .figures true 16 true = (sN 16, .letters) := by decide

/-- R12: characters 1, 5 and 9 of "keyboard text on a new call" are inserted shifts, and SPACE under TX-USOS unshifts. -/
theorem test_keyboard_text :
    emission .unknown (sL 21) = (true, 31) ∧ emission .letters (sF 20) = (true, 30) ∧ emission .figures (sL 3) = (true, 31)
    ∧ emission .figures (sF 26) = (false, 26) ∧ caseAfter true .figures 16 = .letters ∧ caseAfter false .figures 16 = .figures := by
  decide

/-- A receiver in the middle of a character whose largest displacement so far is d. -/
def assembling (d : Nat) (units : List Bool) : State := r0.setLine { r0.line with rx := .assembling, maxDisp := d, units := units }

/-- R29: t = 73 gives 9, t = 250 gives 6, which leaves 9, t = 160 gives 32. -/
theorem test_timed_transition : (after (.timedTransition 73) (assembling 0 [])).line.maxDisp = 9
    ∧ (after (.timedTransition 250) (assembling 9 [])).line.maxDisp = 9
    ∧ (after (.timedTransition 160) (assembling 0 [])).line.maxDisp = 32
    ∧ (after (.timedTransition 223) (assembling 0 [])).line.maxDisp = 31 := by decide

/-- R30: 9 slots are 14 %, 28 are 44 %, 31 are 48 %, 32 are 50 %; only what exceeds 25 % is counted. -/
theorem test_stop_sample_percentage : (after .stopSample (assembling 9 [true, false, true, false, true])).line.lastP = 14
    ∧ (after .stopSample (assembling 9 [true, false, true, false, true])).line.overCount = 0
    ∧ (after .stopSample (assembling 28 [true, false, true, false, true])).line.lastP = 44
    ∧ (after .stopSample (assembling 31 [true, false, true, false, true])).line.lastP = 48
    ∧ (after .stopSample (assembling 32 [true, false, true, false, true])).line.overCount = 1 := by decide

/-! ## States that meet the hypotheses of the statements -/

/-- A message of one number, state, holder and chain. -/
def msg (number : Nat) (state : MsgState) (holder : Option Holder) (chain : List ChainBlock) : Record where
  number := number
  kind := .prepared
  state := state
  holder := holder
  damaged := false
  truncated := false
  printOwed := false
  punchOwed := false
  openedAt := 0
  closedAt := none
  worstP := 0
  overCount := 0
  mutilatedCount := 0
  remote := []
  expected := []
  destination := []
  delivery := .none
  attempts := 0
  readers := 0
  chain := chain

/-- A state whose store holds one message, number 1, in block 0. -/
def stored (r : Record) : State := r0.setStore { r0.store with
  free := List.range' 1 511, directory := [r], counter := 2, memory := [(0, 0x23), (1, 0x23)]
  slotS := if r.holder = some (.port .s) then some 1 else none }

/-- Block 0 with two symbols. -/
def two : List ChainBlock := [⟨0, 2, false⟩]

/-- An OPEN message of the S-port. -/
def opened : State := stored (msg 1 .opened (some (.port .s)) two)

/-- A CLOSED message. -/
def closed : State := stored (msg 1 .closed none two)

/-- A store whose one message, number 1, holds block 0 is sound. -/
theorem one_message_sound {u : Store} {r : Record} (hd : u.directory = [r]) (hf : u.free = List.range' 1 511) (hr : u.retired = [])
    (hc : r.chain = two) (hn : r.number = 1) (hm : u.memory = [(0, 0x23), (1, 0x23)]) (hk : u.counter = 2) : u.Sound where
  blocks := by
    rw [hf, hr, hd, show blocksOf [r] = [0] by simp [blocksOf, hc, two], List.append_nil]
    show (List.range' 1 511 ++ [0]).Perm (List.range 512)
    exact (List.perm_append_comm (l₁ := List.range' 1 511) (l₂ := [0])).trans (by rw [List.range_eq_range']; exact .refl _)
  distinct := by rw [hd]; simp
  numbers := by intro q hq; rw [hd, List.mem_singleton] at hq; subst hq; omega
  counter := by omega
  room := by rw [hd]; simp [Config.directorySize]
  canonical := by rw [hm]; decide
  within := by rw [hm]; decide

theorem opened_store_sound : opened.store.Sound := one_message_sound rfl rfl rfl rfl rfl rfl rfl

theorem opened_slots_agree : opened.store.SlotsAgree where
  slots := by
    intro h n
    show opened.store.slot h = some n ↔ ∃ r ∈ [msg 1 .opened (some (.port .s)) two], _
    simp only [List.mem_singleton, exists_eq_left]
    cases h with
    | line => simp [opened, stored, msg, Store.slot, State.setStore, r0, State.reset, Store.afterCold]
    | keyboard => simp [opened, stored, msg, Store.slot, State.setStore, r0, State.reset, Store.afterCold]
    | port p => cases p <;> simp [opened, stored, msg, Store.slot, State.setStore, r0, State.reset, Store.afterCold]
  holders := by
    intro r hr; rw [show opened.store.directory = [msg 1 .opened (some (.port .s)) two] from rfl] at hr
    rw [List.mem_singleton] at hr; subst hr; decide
  distinct := by decide

theorem opened_bounded : opened.Bounded where
  sEvents := by decide
  xEvents := by decide
  print := by decide
  punch := by decide
  typeahead := by decide
  keys := by decide
  plane0 := by decide
  plane1 := by decide
  triggers := by decide
  history := by decide
  slots := by decide
  arbiter := by refine ⟨by decide, ?_⟩; intro r h; exact absurd h (by decide +revert)
  quality := by refine ⟨?_, ?_, ?_, ?_, ?_, ?_⟩ <;> decide

/-! ## Witnesses: concrete states and operands that meet the hypotheses of each statement -/

/-- r0 with one command waiting. -/
def waiting (c : Instr) (s : State) : State := s.setPending [c]

theorem witness_StepRunsTheFrontCommand :
    (waiting (.nop .s) r0).pending = .nop .s :: [] ∧ r0.pending = [] := by decide

theorem witness_CommandsLeaveTheQueue : ∃ t, exec (.nop .s) (waiting (.nop .x) r0) = .next t := ⟨_, rfl⟩

theorem witness_RequestsReadBack :
    (Instr.appendText .s 1 (List.replicate 32 0x21)).wellFormed = true
    ∧ requestBytes (.appendText .s 1 (List.replicate 32 0x21)) = some (0x31 :: 34 :: 0 :: 1 :: List.replicate 32 0x21)
    ∧ (Instr.restart .x).wellFormed = true ∧ requestBytes (.restart .x) = some [0x05, 0]
    ∧ (r0.port .x).selected = false ∧ (r0.port .x).transfer = none
    ∧ ([0, 3, 1, 0] : List Byte)[(List.replicate 31 false).length / 8]? = some 0
    ∧ ([0, 3, 1, 0] : List Byte).length ≤ (List.replicate 32 false).length / 8 := by decide

theorem witness_CommandsComeFromTheirRequest :
    frameRequest .x ⟨7, true⟩ [0x63, 0, 0xAA] = .command (.protect .x true)
    ∧ frameRequest .s ⟨0, false⟩ [0x05, 0] = .command (.restart .s) := by decide

theorem witness_MalformedRequestsAreRefused :
    ([] : List Byte).length < 2 ∧ [(0x31 : Byte)].length < 2 ∧ [(0 : Byte)].length < (2 : Byte).toNat
    ∧ (∀ i enc, requestBytes i = some enc → enc.head? ≠ some 0x07)
    ∧ frameRequest .s ⟨0, false⟩ [0x07, 0] = .malformed 0x07
    ∧ frameRequest .s ⟨0, false⟩ [0x31, 2, 0] = .malformed 0x31 ∧ (r0.port .s).transfer = none := by
  refine ⟨by decide, by decide, by decide, ?_, by decide, by decide, by decide⟩
  intro i enc h
  cases i <;> simp [requestBytes, frame] at h <;> subst h <;> simp

theorem witness_EventsAreReadOldestFirst :
    (1 ≤ (1 : Byte).toNat ∧ (4 : Byte).toNat ≤ 4) ∧ (0 : Byte).toNat = 0 ∧ 4 < (5 : Byte).toNat := by decide

/-- A queue of n entries at both ports. -/
def queued (n : Nat) : State := { r0 with
  sPort := { r0.sPort with queue := List.replicate n .breakDetected, mask := 0x00FFFFFFFFFB }
  xPort := { r0.xPort with queue := List.replicate n .breakDetected } }

theorem witness_MasksAdmitEvents :
    (∃ n, 40 ≤ n ∧ (0x010000000000 : BitVec 48).getLsbD n = true)
    ∧ (∀ n, 40 ≤ n → (0x00FFFFFFFFFF : BitVec 48).getLsbD n = false)
    ∧ ((queued 15).port .s).mask.getLsbD Event.breakDetected.kind = false
    ∧ ((queued 15).port .x).mask.getLsbD Event.breakDetected.kind = true ∧ ((queued 15).port .x).queue.length < 16
    ∧ ((queued 16).port .x).mask.getLsbD Event.breakDetected.kind = true ∧ 16 ≤ ((queued 16).port .x).queue.length := by
  refine ⟨⟨40, by decide⟩, ?_, by decide⟩
  intro n hn
  rcases Nat.lt_or_ge n 48 with h | h
  · have : n = 40 ∨ n = 41 ∨ n = 42 ∨ n = 43 ∨ n = 44 ∨ n = 45 ∨ n = 46 ∨ n = 47 := by omega
    rcases this with rfl | rfl | rfl | rfl | rfl | rfl | rfl | rfl <;> decide
  · exact BitVec.getLsbD_of_ge _ _ h

theorem witness_ColdResetLeaves : opened.ident.slots.length = 8 ∧ (∀ n first text, opened.ident.op ≠ some (.program n first text))
    ∧ (let i : Identity := { r0.ident with op := some (.program 7 19 [0x23]) }
       i.op = some (.program 7 19 [0x23]) ∧ i.slots[7]? = some .unwritten ∧ IdSlot.unwritten.deadBits = [])
    ∧ (∀ k ∈ opened.ident.slots, k.positions.length = 20 ∧ k.wrongBits.length ≤ 2) :=
  ⟨by decide, fun _ _ _ => by rw [show opened.ident.op = none from rfl]; simp, by decide, by decide⟩

/-- A slot committed with A alone, as a latch load takes it: one bit of the length wrong and corrected. -/
theorem witness_LatchLoaded :
    (⟨0x23 :: List.replicate 19 0xFF, 3, [], 0, true, [161], []⟩ : IdSlot).Taken [sL 3]
    ∧ ∀ ys, ¬ IdSlot.unwritten.Taken ys :=
  ⟨⟨rfl, by decide, 1, by decide⟩, fun ys h => absurd h.1 (by decide)⟩

theorem witness_WarmResetLeaves : opened.ident.slots.length = 8
    ∧ (Instr.warmReset = .warmReset ∧ ResetCause.pin = .pin) ∧ ∃ p, Instr.restart .x = .restart p ∧ ResetCause.port .x = .port p :=
  ⟨by decide, ⟨rfl, rfl⟩, .x, rfl, rfl⟩

theorem witness_StoreStaysSound : (waiting (.appendText .s 1 [0x23]) opened).store.Sound
    ∧ ∃ t, step (waiting (.appendText .s 1 [0x23]) opened) = .next t := ⟨opened_store_sound, _, rfl⟩

theorem witness_OpenSlotsStayInAgreement : (waiting (.close .s 1) opened).store.Sound
    ∧ (waiting (.close .s 1) opened).store.SlotsAgree ∧ ∃ t, step (waiting (.close .s 1) opened) = .next t :=
  ⟨opened_store_sound, opened_slots_agree, _, rfl⟩

theorem witness_QueuesStayBounded : (waiting .stopSample opened).Bounded
    ∧ ∃ t, step (waiting .stopSample opened) = .next t :=
  ⟨⟨opened_bounded.1, opened_bounded.2, opened_bounded.3, opened_bounded.4, opened_bounded.5, opened_bounded.6, opened_bounded.7,
    opened_bounded.8, opened_bounded.9, opened_bounded.10, opened_bounded.11, opened_bounded.12, opened_bounded.13⟩, _, rfl⟩

theorem witness_IdentityCellsOnlyFall : ∃ t, step (waiting (.programSlot .s true 0 0 [0x23]) r0) = .next t := ⟨_, rfl⟩

theorem witness_PortsOnlyGrow :
    isReset (.close .s 1) = false ∧ (∃ t, exec (.close .s 1) opened = .next t) ∧ commandPort (.close .s 1) ≠ some .x
    ∧ (∀ n, Instr.close .s 1 ≠ .readEvents .s n) ∧ Instr.close .s 1 ≠ .status .s :=
  ⟨by decide, ⟨_, rfl⟩, by decide, by intro n; simp, by simp⟩

theorem witness_LineSettingsAreStored :
    ((1 : Byte).getLsbD 0 = true ∧ 5 < (6 : Byte).toNat)
    ∧ ((2 : Byte).getLsbD 1 = true ∧ (65 : Byte).toNat ≠ 64 ∧ (65 : Byte).toNat ≠ 96 ∧ (65 : Byte).toNat ≠ 128)
    ∧ ((16 : Byte).getLsbD 4 = true ∧ 1 < (2 : Byte).toNat) ∧ ((32 : Byte).getLsbD 5 = true ∧ 1 < (2 : Byte).toNat)
    ∧ (¬ (((0x7E : Byte).getLsbD 0 = true ∧ 5 < (9 : Byte).toNat)
        ∨ ((0x7E : Byte).getLsbD 1 = true ∧ (128 : Byte).toNat ≠ 64 ∧ (128 : Byte).toNat ≠ 96 ∧ (128 : Byte).toNat ≠ 128)
        ∨ ((0x7E : Byte).getLsbD 4 = true ∧ 1 < (1 : Byte).toNat) ∨ ((0x7E : Byte).getLsbD 5 = true ∧ 1 < (1 : Byte).toNat))
      ∧ (0x7E : Byte).getLsbD 0 = false ∧ r0.line.rx ≠ .spacingHold) := by decide

/-- Line Units with a pending rate, free and not free to change. -/
def ratePending (rx : RxState) : State := r0.setLine { r0.line with rx := rx, pendingRate := some 5 }

theorem witness_RatesChangeBetweenCharacters :
    (5 : Byte).toNat ≤ 5 ∧ (1 : Byte).toNat = r0.line.rate ∧ (5 : Byte).toNat ≠ r0.line.rate
    ∧ ((r0.line.rx = .hunting ∨ r0.line.rx = .off) ∧ r0.line.txChar = none ∧ r0.line.abState ≠ .sending)
    ∧ ¬ (((assembling 0 []).line.rx = .hunting ∨ (assembling 0 []).line.rx = .off) ∧ (assembling 0 []).line.txChar = none
        ∧ (assembling 0 []).line.abState ≠ .sending)
    ∧ (5 : Byte).toNat ≠ (assembling 0 []).line.rate
    ∧ ((ratePending .off).line.pendingRate = some 5 ∧ (ratePending .off).line.rx = .off ∧ (ratePending .off).line.txChar = none
        ∧ (ratePending .off).line.abState ≠ .sending)
    ∧ r0.line.pendingRate = none ∧ (ratePending .starting).line.rx ≠ .hunting := by decide

/-- The receiver in a state, with LINE IN at a level. -/
def receiver (rx : RxState) (mark : Bool) : State := (r0.setLine { r0.line with rx := rx }).setPins ⟨mark, false⟩

theorem witness_ReceiverTurnsOnAndOff :
    (receiver .off true).line.rx = .off ∧ (receiver .off true).pins.lineMark = true
    ∧ (receiver .off false).line.rx = .off ∧ (receiver .off false).pins.lineMark = false ∧ r0.line.rx ≠ .off := by decide

/-- A character in flight. -/
def inFlight (l : LineUnit) : LineUnit := { l with txChar := some ⟨21, 96, false⟩ }

/-- A part whose transmitter is taken and in which nothing is typed. -/
theorem witness_Engaged : (r0.setLine (inFlight r0.line)).Engaged := ⟨.inl (by decide), rfl, by decide⟩

/-- KEYBOARD with the grant, its release interval running, CH0 waiting. -/
def granted : State := r0.setLine { r0.line with holder := some .keyboard, releaseRun := some 10, requests := [.chan .ch0] }

theorem witness_TheGrantPasses :
    (let l := { r0.line with requests := [.control], txEnable := false }
     (l.holder = none ∧ l.pendingRate = none ∧ l.requests = .control :: [])
     ∧ (l.txEnable = false ∧ l.txChar = none ∧ l.abState ≠ .sending))
    ∧ (let s := r0.setLine (inFlight { r0.line with requests := [.control, .chan .ch0], txEnable := false })
       s.line.holder = none ∧ s.line.pendingRate = none ∧ s.line.requests = .control :: [.chan .ch0]
       ∧ s.line.txChar = some ⟨21, 96, false⟩ ∧ s.kb.typeahead = [] ∧ .keyboard ∉ [Requester.chan .ch0])
    ∧ (let s := r0.setLine (inFlight { r0.line with txEnable := false })
       s.line.requests = [] ∧ s.line.txChar = some ⟨21, 96, false⟩ ∧ s.kb.typeahead = [] ∧ .keyboard ∉ s.line.requests)
    ∧ (granted.line.releaseRun = some 10 ∧ granted.line.holder = some .keyboard) ∧ r0.line.releaseRun = none
    ∧ (let s := granted.setLine (inFlight granted.line)
       s.line.releaseRun = some 10 ∧ s.line.holder = some .keyboard ∧ s.line.txEnable = true ∧ s.line.pendingRate = none
       ∧ s.line.requests = .chan .ch0 :: [] ∧ s.line.txChar = some ⟨21, 96, false⟩ ∧ s.kb.typeahead = [])
    ∧ (let s := granted.setLine (inFlight { granted.line with txEnable := false })
       s.line.txEnable = false ∧ s.line.txChar = some ⟨21, 96, false⟩ ∧ s.kb.typeahead = [] ∧ .keyboard ∉ s.line.requests) := by
  decide

theorem witness_CharactersAreAssembled :
    (r0.line.rx = .hunting ∧ r0.pins.lineMark = true) ∧ ((receiver .off true).line.rx = .off ∧ (receiver .off true).pins.lineMark = true)
    ∧ ((receiver .starting true).line.rx = .starting ∧ (receiver .starting true).pins.lineMark = true)
    ∧ ((receiver .starting false).line.rx = .starting ∧ (receiver .starting false).pins.lineMark = false)
    ∧ ((assembling 0 [true, true, true, true]).line.rx = .assembling ∧ (assembling 0 [true, true, true, true]).line.units.length < 5) := by
  decide

theorem witness_TransitionsAreTimed :
    ((receiver .starting false).line.rx = .starting ∧ 1 ≤ 1 ∧ 415 < 416) ∧ 416 ≤ 416 ∧ r0.line.rx = .hunting ∧ r0.pins.lineMark = true
    ∧ ((receiver .starting true).line.rx = .starting ∧ (receiver .starting true).pins.lineMark = true) ∧ r0.line.rx ≠ .off := by decide

/-- The Call Sequencer in a state, with a phase and a mode snapshot. -/
def inCall (state : CallState) (phase : CallPhase) (snapshot : AnsMode) : State :=
  r0.setCalls { r0.calls with state := state, phase := some phase, snapshot := some snapshot, idleT := some 90
                              breakGuardT := true, clearGuardT := state = .clearing }

/-- Five units, at the stop sample. -/
def atStop : State := assembling 32 [true, false, true, false, true]

theorem witness_QualityRecordIsKept :
    atStop.line.rx = .assembling ∧ atStop.line.units.length = 5 ∧ (∃ p, Instr.callIn .s = .callIn p ∨ Instr.callIn .s = .callOut p)
    ∧ r0.calls.state = .idle ∧ isReset (.restart .x) = true ∧ isReset .coldReset = true := by
  refine ⟨by decide, by decide, ⟨.s, .inl rfl⟩, by decide⟩

theorem witness_ReceivedSymbolsAreClassed :
    (20 : BitVec 5).toNat ∉ [0, 1, 2, 16, 30, 31] ∧ (31 : BitVec 5).toNat ∈ [0, 1, 2, 16, 30, 31]
    ∧ (0 : BitVec 5).toNat ∈ [0, 1, 2, 16, 30, 31] := by decide

/-- At the stop sample of a character whose units are u, with triggers, a call and a store. -/
def sampling (u : List Bool) (row : SinkSet) (triggers : List (Option Trigger)) (c : Calls) (t : Store) : State :=
  { assembling 32 u with
    dist := { r0.dist with rowReceive := row, triggers := triggers, history := [sL 3] }
    calls := c, store := t, ident := { r0.ident with latch := some ⟨0, [sL 3]⟩ } }

/-- The units of Y (code 21), BLANK (0) and WRU, which is code 6 in FIGURES. -/
def unitsY : List Bool := [true, false, true, false, true]
def unitsWru : List Bool := [false, true, true, false, false]

/-- The hypotheses on the character: with mark, and with space before a break is due; with printer and punch that take and do not. -/
theorem witness_StopSampleDelivers :
    (let s := sampling unitsY ⟨false, true, true, false⟩ r0.dist.triggers r0.calls r0.store
     s.line.rx = .assembling ∧ s.line.units.length = 5 ∧ s.pins.lineMark = true
     ∧ classify s.line.rxCase s.line.rxUsos (codeOfUnits s.line.units) s.pins.lineMark = (sL 21, .letters)
     ∧ (s.dist.rowReceive.store || s.dist.storeAdd) = false ∧ s.store.slotLine = none ∧ s.printer.offer = .takes ∧ s.punch.offer = .takes)
    ∧ breakAtStop { atStop.line with lastFall := 400 } = false
    ∧ (classify .letters false (codeOfUnits unitsY) false).1.mutilated = true
    ∧ ({ r0.punch with engine := .off } : Punch).offer ≠ .takes := by decide

/-- The received message of the line, number 1, in block 0. -/
def line1 : Record := { msg 1 .opened (some .line) two with kind := .received }

/-- A store in which it is open. -/
def receiving : Store := { opened.store with directory := [line1], slotS := none, slotLine := some 1 }

/-- The store after a cold reset is sound and has free blocks. -/
theorem r0_free : r0.store.free = List.range 512 := by simp only [r0, State.reset, Store.afterCold]

theorem cold_free : r0.store.free ≠ [] := by rw [r0_free]; exact fun h => absurd (congrArg List.length h) (by rw [List.length_range]; simp)

theorem cold_sound : r0.store.Sound := by
  refine ⟨?_, by decide, by decide, by decide, by decide, by decide, by decide⟩
  rw [r0_free, show r0.store.retired = [] from rfl, show blocksOf r0.store.directory = [] from rfl, List.append_nil, List.append_nil]

/-- The hypotheses on the store: a directory that is full, a message that opens, one that is open with room and with none, and a
mutilated count that reaches its limit, with a capture running, and one that does not. -/
theorem witness_StopSampleDelivers_store :
    (let t : Store := { r0.store with directory := List.replicate 48 line1 }; t.slotLine = none ∧ 48 ≤ t.directory.length)
    ∧ (r0.store.slotLine = none ∧ r0.store.directory.length < 48 ∧ 1 = nextNumber^[0] r0.store.counter
      ∧ (∀ q ∈ r0.store.directory, q.number ≠ 1) ∧ r0.store.free ≠ [] ∧ r0.store.Sound)
    ∧ (receiving.slotLine = some 1 ∧ receiving.Sound ∧ receiving.find 1 = some line1 ∧ line1.kind = .received
      ∧ receiving.Clean line1 ∧ r0.ch0 = none ∧ r0.ch1 = none
      ∧ ∃ b, line1.chain.getLast? = some b ∧ b.damaged = false ∧ b.fill < 32)
    ∧ (let r : Record := { line1 with chain := [⟨0, 32, false⟩] }
       ¬ ((∃ b, r.chain.getLast? = some b ∧ b.damaged = false ∧ b.fill < 32) ∨ ({ receiving with free := [] } : Store).free ≠ []))
    ∧ (let c := { (inCall .incoming .capture .unattended).calls with mutLimit := 1, capturing := true, captured := [sL 3] }
       (classify .letters false (codeOfUnits unitsY) false).1.mutilated = true ∧ c.snapshot = some .unattended ∧ c.state = .incoming
       ∧ c.mutLimit ≠ 0 ∧ min 65535 (line1.mutilatedCount + 1) = c.mutLimit ∧ c.auto = none ∧ c.phase = some .capture ∧ c.captured ≠ []
       ∧ ({ c with capturing := false } : Calls).capturing = false ∧ min 65535 (line1.mutilatedCount + 1) ≠ 2) := by
  refine ⟨by decide, ⟨rfl, by decide, rfl, by decide, cold_free, cold_sound⟩, ⟨rfl, one_message_sound rfl rfl rfl rfl rfl rfl rfl, by decide, rfl,
    fun _ _ _ => rfl, rfl, rfl, _, rfl, by decide, by decide⟩, ?_, by decide⟩
  rintro r (⟨b, h, -, hf⟩ | h)
  · cases h; revert hf; decide
  · exact h rfl

/-- The messages found by a trigger that wants Y after the A of the history. -/
def wants (action : TriggerAction) : List (Option Trigger) :=
  [some ⟨true, [.symbol (sL 3), .symbol (sL 21)], action⟩, none, none, none]

/-- What the trigger table finds when Y joins the history. -/
def foundBy (triggers : List (Option Trigger)) : List (Nat × TriggerAction) :=
  (List.range triggers.length).filterMap fun n => match triggers.getD n none with
    | some e => if e.enable && Matches e.pattern ([sL 3, sL 21].drop (2 - e.pattern.length)) then some (n, e.action) else none
    | none => none

/-- A message held for the caller whose identity is A. -/
def held : Record := { msg 1 .closed none two with expected := [.symbol (sL 3)], delivery := .held }

/-- The hypotheses on the triggers: none that matches, each action alone, and the states in which END MESSAGE, CLEAR REQUEST and
SEND HELD act and do not. -/
theorem witness_StopSampleDelivers_triggers :
    r0.calls.capturing = false ∧ ((sL 21).kind ≠ .explicitShift ∧ (sL 21).kind ≠ .blank) ∧ (sN 0).kind = .blank
    ∧ foundBy r0.dist.triggers = [] ∧ foundBy (wants .report) = [(0, .report)] ∧ foundBy (wants .endMessage) = [(0, .endMessage)]
    ∧ foundBy (wants .clearRequest) = [(0, .clearRequest)] ∧ foundBy (wants .sendHeld) = [(0, .sendHeld)]
    ∧ (receiving.slotLine = some 1 ∧ receiving.find 1 = some line1 ∧ line1.holder = some .line)
    ∧ (inCall .incoming .traffic .unattended).calls.auto = none
    ∧ (let c := { (inCall .incoming .traffic .unattended).calls with status := .captured, captured := [sL 3] }
       (c.snapshot = some .unattended ∧ c.state = .incoming ∧ c.phase = some .traffic ∧ c.status = .captured ∧ c.coll = none)
       ∧ (∀ r ∈ opened.store.directory, r.CollectedBy c.captured = false)
       ∧ ((stored held).store.directory = [] ++ held :: [] ∧ held.CollectedBy c.captured = true
          ∧ ((stored held).store.directory.map (·.number)).Nodup ∧ held.chain = ⟨0, 2, false⟩ :: [] ∧ 1 ≤ 2
          ∧ (stored held).store.wrongOf 0 = [] ∧ (stored held).ch0 = none)) := by decide

/-- The hypotheses on a capture, which takes Y as its first and its twentieth symbol and skips CR before the first, and on a received
WRU, wanted by the response setting and by an unattended call, with each state of the answer-back. -/
theorem witness_StopSampleDelivers_capture :
    (let c := { r0.calls with capturing := true, captured := List.replicate 19 (sL 3) }
     c.capturing = true ∧ c.captured.length = 19 ∧ c.auto = none ∧ c.phase ≠ some .capture)
    ∧ (let c := { r0.calls with capturing := true }; c.captured = [] ∧ c.captured.length < 19 ∧ (sN 1).kind = .cr ∧ (sL 21).kind ≠ .cr
       ∧ (sL 21).kind ≠ .lf)
    ∧ (classify .figures false (codeOfUnits unitsWru) true).1.kind = .wru ∧ r0.ident.wruResponse = true
    ∧ (inCall .incoming .traffic .unattended).calls.snapshot = some .unattended
    ∧ r0.line.abState = .none ∧ ({ r0.ident with latch := some ⟨0, [sL 3]⟩ } : Identity).latch ≠ none ∧ r0.ident.latch = none
    ∧ ({ r0.line with abState := .pending } : LineUnit).abState ≠ .none := by decide

/-- A space period in progress, with a break declared or not. -/
def spacing (declared : Bool) : State :=
  (r0.setLine { r0.line with rx := .spacingHold, breakDeclared := declared }).setPins ⟨false, false⟩

theorem witness_BreaksAreDeclaredAndEnd :
    ((spacing false).line.rx = .spacingHold ∧ (spacing false).line.breakDeclared = false ∧ (spacing false).ch0 = none
      ∧ (spacing false).ch1 = none ∧ (spacing false).pins.lineMark = false)
    ∧ ((spacing true).line.breakDeclared = true ∧ (spacing true).line.rx = .spacingHold ∧ (spacing true).pins.lineMark = false)
    ∧ ((receiver .hunting false).line.rx = .hunting ∧ (receiver .hunting false).pins.lineMark = false)
    ∧ ((receiver .off false).line.rx = .off ∧ (receiver .off false).pins.lineMark = false) := by decide

/-- KEYBOARD with the grant, R and Y in the typeahead, and a character in flight. -/
def typing : State := { r0 with
  line := inFlight { r0.line with holder := some .keyboard }
  kb := { r0.kb with typeahead := [sL 21, sL 28] }
  dist := { r0.dist with rowSent := ⟨false, false, false, false⟩ } }

/-- An answer-back of A and Y wanted or being sent, a character in flight. -/
def answering (ab : AbState) : State := { r0 with
  line := inFlight { r0.line with abState := ab, abText := [sL 3, sL 21] }
  ident := { r0.ident with latch := some ⟨0, [sL 3, sL 21]⟩ } }

theorem witness_CharactersFollowOneAnother :
    (let s := r0.setLine (inFlight r0.line); s.line.txChar = some ⟨21, 96, false⟩ ∧ s.Resting)
    ∧ (let l := inFlight { r0.line with abState := .sending }
       l.txChar = some ⟨21, 96, false⟩ ∧ l.abState = .sending ∧ l.abText = [] ∧ r0.calls.auto = none)
    ∧ (typing.line.txChar = some ⟨21, 96, false⟩ ∧ typing.kb.typeahead = sL 21 :: [sL 28] ∧ typing.kb.mode = .line
      ∧ typing.dist.rowLine = ⟨true, false, false, false⟩ ∧ typing.dist.rowSent = ⟨false, false, false, false⟩
      ∧ typing.calls.state = .idle ∧ typing.store.slotLine = none ∧ typing.line.holder = some .keyboard
      ∧ typing.line.abState = .none ∧ typing.line.txEnable = true ∧ typing.line.pendingRate = none
      ∧ (emission typing.line.txCase (sL 21)).1 = true ∧ (emission .letters (sL 21)).1 = false)
    ∧ (.keyboard ∉ typing.line.requests ∧ r0.dist.rowSent = ⟨false, true, false, false⟩ ∧ r0.printer.offer = .takes
      ∧ ({ r0.printer with engine := .fault } : Printer).offer ≠ .takes)
    ∧ (let s := answering .sending
       s.line.txChar = some ⟨21, 96, false⟩ ∧ s.kb.typeahead = [] ∧ .keyboard ∉ s.line.requests ∧ s.line.abState = .sending
       ∧ s.line.abText = sL 3 :: [sL 21])
    ∧ (let s := answering .pending
       s.line.abState = .pending ∧ s.ident.latch = some ⟨0, [sL 3, sL 21]⟩ ∧ s.line.txEnable = true ∧ s.line.pendingRate = none)
    ∧ ({ (answering .pending).line with txEnable := false } : LineUnit).txEnable = false
    ∧ ({ (answering .pending).line with pendingRate := some 5 } : LineUnit).pendingRate ≠ none := by
  refine ⟨⟨rfl, ?_⟩, by decide, by decide, by decide, by decide, by decide, by decide, by decide⟩
  exact ⟨rfl, rfl, rfl, rfl⟩

theorem witness_ShiftsAreInserted :
    (⟨7, .figures, true⟩ : Machine.Symbol).mutilated = true ∧ ((sN 16).mutilated = false ∧ (sN 16).cls = .neutral)
    ∧ ((sL 3).mutilated = false ∧ (sL 3).cls = .letters) ∧ ((sF 3).mutilated = false ∧ (sF 3).cls = .figures) := by decide

theorem witness_RoutesAreSet :
    3 < (4 : Byte).toNat ∧ 15 < (16 : Byte).toNat ∧ (15 : Byte).toNat ≤ 15
    ∧ (RouteRow.loc = .loc ∧ (3 : Byte) = 3) ∧ (∀ o m : Bool, (fun x y : Bool => x != y) o m = (o != m))
    ∧ (let o := r0.dist.row .line
       let k : SinkSet := ⟨o.transmitter != true, o.printer, o.punch, o.store⟩
       ((k.transmitter = true → RouteRow.line = .line ∨ RouteRow.line = .loc) ∧ (k.store = true → RouteRow.line ≠ .sent))
       ∧ ((RouteRow.line = .line ∧ r0.kb.mode = .line) ∧ o.transmitter = true ∧ k.transmitter = false)) := by
  refine ⟨by decide, by decide, by decide, ⟨rfl, rfl⟩, fun _ _ => rfl, by decide⟩

theorem witness_TriggersAndGatingAreSet :
    (∃ (ps : List PatPos) (act : TriggerAction), 1 ≤ ps.length ∧ ps.length ≤ 8 ∧ (3 : Byte).toNat ≤ 3 ∧ (1 : Byte).toNat ≤ 1
      ∧ (5 : Byte) = byteOf act.index
      ∧ ∀ y, .symbol y ∈ ps → y.wellFormed = true ∧ y.kind ≠ .explicitShift ∧ y.kind ≠ .blank)
    ∧ ((3 : Byte).toNat ≤ 3 ∧ (5 : Byte).toNat ≤ 5) ∧ 3 < (4 : Byte).toNat ∧ 5 < (6 : Byte).toNat ∧ 1 < (2 : Byte).toNat
    ∧ ∃ b ∈ [(0x1F : Byte)], b ≠ 0x7F ∧ ∀ y : Machine.Symbol, y.wellFormed = true → y.kind ≠ .explicitShift → y.kind ≠ .blank → y.toByte ≠ b := by
  refine ⟨⟨.symbol (sL 3) :: List.replicate 7 .dontCare, .report, by decide, by decide, by decide, by decide, by decide, ?_⟩,
    by decide, by decide, by decide, by decide, ⟨0x1F, by simp, by decide, ?_⟩⟩
  · intro y h
    simp [List.replicate] at h
    subst h; decide
  · rintro ⟨c, k, m⟩
    revert c
    cases k <;> cases m <;> decide

/-- The type byte of an assignment. -/
def typeByte : Assignment → Byte
  | .none => 0
  | .symbol _ => 1
  | .shift => 2
  | .function _ => 3

theorem names_type {e : Byte × Byte} {a : Assignment} (h : Names e a) : e.1 = typeByte a := by
  cases a with
  | none => exact h
  | shift => exact h
  | symbol y => exact h.1
  | function f => exact h.1

theorem witness_KeymapsAreLoaded :
    1 ≤ [((1 : Byte), (0x23 : Byte))].length ∧ 1 < (2 : Byte).toNat ∧ 64 < (63 : Byte).toNat + [((0 : Byte), (0 : Byte)), (0, 0)].length
    ∧ (∃ e ∈ [((1 : Byte), (0x7F : Byte))], ∀ a, ¬ Names e a) ∧ (∀ a, ¬ Names (3, 13) a) ∧ (∀ a, ¬ Names (4, 0) a)
    ∧ List.Forall₂ Names [((1 : Byte), (0x23 : Byte)), (0, 0xFF), (2, 0xFF), (3, 12)]
        [Assignment.symbol (sL 3), .none, .shift, .function (.report 8)]
    ∧ (63 : Byte).toNat + [((1 : Byte), (0x23 : Byte))].length ≤ 64 ∧ r0.kb.plane0.length = 64 ∧ r0.kb.plane1.length = 64 := by
  refine ⟨by decide, by decide, by decide, ⟨_, List.mem_singleton.2 rfl, fun a h => ?_⟩, fun a h => ?_, fun a h => ?_,
    .cons ⟨rfl, by unfold SymbolPasses; decide, rfl⟩ (.cons rfl (.cons rfl (.cons ⟨rfl, by decide, by decide, by decide⟩ .nil))),
    by decide, by decide, by decide⟩
  · have t := names_type h
    cases a with
    | symbol y => exact absurd h.2.1 (by unfold SymbolPasses; decide)
    | none => simp [typeByte] at t
    | shift => simp [typeByte] at t
    | function f => simp [typeByte] at t
  · have t := names_type h
    cases a with
    | function f =>
      cases f with
      | report n => exact absurd h.2.2.2 (by have := h.2.2.1; show ¬ 13 = 4 + n; omega)
      | hereIs => exact absurd h.2 (by decide)
      | wru => exact absurd h.2 (by decide)
      | breakIn => exact absurd h.2 (by decide)
      | lineLocal => exact absurd h.2 (by decide)
      | send => exact absurd h.2 (by decide)
    | none => simp [typeByte] at t
    | symbol y => simp [typeByte] at t
    | shift => simp [typeByte] at t
  · have t := names_type h
    cases a <;> simp [typeByte] at t

/-- The keyboard in LOCAL mode with the row KEYBOARD-LOCAL and a typeahead. -/
def localKeys (row : SinkSet) (typed : List Machine.Symbol) : State :=
  (r0.setDist { r0.dist with rowLocal := row }).setKb { r0.kb with mode := .loc, typeahead := typed }

theorem witness_KeyboardIsLockedAndSwitched :
    r0.kb.mode = .line ∧ (localKeys .empty []).kb.mode = .loc ∧ 1 < (2 : Byte).toNat := by decide

theorem witness_KeysAreDebounced :
    r0.kb.keys.length = 64 ∧ r0.kb.keys[63]? = some ⟨false, 0⟩ ∧ (0 : BitVec 64).getLsbD 63 = false
    ∧ (0x8000000000000000 : BitVec 64).getLsbD 63 ≠ false ∧ 0 + 1 < r0.kb.confirmCount
    ∧ (let k : Key := ⟨false, 3⟩; r0.kb.confirmCount ≤ k.run + 1) ∧ 2 ≤ 2 := by decide

/-- T (position 4) seen down for the last time but one, in LOCAL mode, its row PRINTER alone. -/
def pressing (typed : List Machine.Symbol) : State :=
  (localKeys .justPrinter typed).setKb { (localKeys .justPrinter typed).kb with keys := r0.kb.keys.set 4 ⟨false, 3⟩ }

theorem witness_KeysTypeSymbols :
    let seen : BitVec 64 := 0x10
    let s := pressing []
    let keys := scanKeys s.kb.confirmCount s.kb.keys seen
    let held := (List.range 64).any fun k => (keys.getD k ⟨false, 0⟩).down && (s.kb.plane0.getD k .none == .shift)
    s.kb.keys.length = 64 ∧ s.kb.plane0.length = 64 ∧ pressed s.kb.keys keys = [4]
    ∧ (if held then s.kb.plane1 else s.kb.plane0).getD 4 .none = .symbol (sL 23)
    ∧ s.kb.mode = .loc ∧ s.dist.rowLocal = ⟨false, true, false, false⟩ ∧ s.printer.engine ≠ .fault ∧ s.line.requests = []
    ∧ s.line.holder = none ∧ s.line.abState = .none ∧ s.kb.portLock = false ∧ s.kb.callLock = false ∧ s.kb.typeahead.length < 32
    ∧ 32 ≤ (pressing (List.replicate 32 (sL 3))).kb.typeahead.length ∧ (s.setKb { s.kb with portLock := true }).kb.portLock = true
    ∧ ((s.setPrinter { s.printer with engine := .fault }).printer.engine = .fault ∧ s.kb.typeahead = []) := by
  decide

/-- The same key in LINE mode, its row TRANSMITTER alone. -/
def pressingLine (typed : List Machine.Symbol) : State :=
  r0.setKb { r0.kb with keys := r0.kb.keys.set 4 ⟨false, 3⟩, typeahead := typed }

/-- A store with one OPEN message, held by KEYBOARD, and a count of free blocks. -/
def filledBy (fill free : Nat) : Store := { r0.store with
  free := List.range' 1 free, slotKeyboard := some 1, directory := [msg 1 .opened (some .keyboard) [⟨0, fill, false⟩]] }

/-- The rows and sinks of the symbol clauses: the transmitter free and taken, KEYBOARD in its list, sinks that admit and that refuse. -/
theorem witness_KeysTypeSymbols_rows :
    (let s := pressingLine []
     let keys := scanKeys s.kb.confirmCount s.kb.keys 0x10
     let held := (List.range 64).any fun k => (keys.getD k ⟨false, 0⟩).down && (s.kb.plane0.getD k .none == .shift)
     s.kb.keys.length = 64 ∧ s.kb.plane0.length = 64 ∧ pressed s.kb.keys keys = [4]
     ∧ (if held then s.kb.plane1 else s.kb.plane0).getD 4 .none = .symbol (sL 23)
     ∧ s.kb.mode = .line ∧ s.dist.rowLine = ⟨true, false, false, false⟩ ∧ s.kb.portLock = false ∧ s.kb.callLock = false
     ∧ s.kb.typeahead = [] ∧ s.line.txChar = none ∧ s.line.holder = none ∧ s.line.requests = [] ∧ s.line.abState = .none
     ∧ s.line.txEnable = true ∧ s.line.pendingRate = none
     ∧ (let u := s.setLine (inFlight s.line); u.line.txChar ≠ none ∧ u.line.holder ≠ some .keyboard ∧ .keyboard ∉ u.line.requests))
    ∧ (let s := (pressingLine (List.replicate 31 (sL 3))).setLine (inFlight { r0.line with holder := some .keyboard })
       s.kb.typeahead ≠ [] ∧ s.kb.typeahead.length < 32 ∧ s.line.txChar ≠ none ∧ s.line.holder = some .keyboard)
    ∧ r0.store.slotKeyboard = none ∧ r0.printer.engine ≠ .fault ∧ r0.punch.engine ≠ .off
    ∧ ({ r0.punch with engine := .off } : Punch).engine = .off
    ∧ (∀ q ∈ [(31, 16), (32, 17), (32, 16)], let t := filledBy q.1 q.2
       t.slotKeyboard = some 1 ∧ t.find 1 = some (msg 1 .opened (some .keyboard) [⟨0, q.1, false⟩]) ∧ t.free.length = q.2) := by
  refine ⟨by decide, by decide, by decide⟩

/-- The same key assigned a function. -/
def pressingFunction (f : Machine.Function) : State :=
  (pressing []).setKb { (pressing []).kb with plane0 := r0.kb.plane0.set 4 (.function f) }

theorem witness_KeysTypeSymbols_functions :
    (∀ f ∈ [Machine.Function.hereIs, .wru, .breakIn, .lineLocal, .send, .report 0],
      let s := pressingFunction f
      let keys := scanKeys s.kb.confirmCount s.kb.keys 0x10
      let held := (List.range 64).any fun k => (keys.getD k ⟨false, 0⟩).down && (s.kb.plane0.getD k .none == .shift)
      s.kb.keys.length = 64 ∧ s.kb.plane0.length = 64 ∧ pressed s.kb.keys keys = [4]
      ∧ (if held then s.kb.plane1 else s.kb.plane0).getD 4 .none = .function f)
    ∧ ({ r0.kb with callLock := true } : Keyboard).callLock = true ∧ (r0.kb.portLock = false ∧ r0.kb.callLock = false)
    ∧ (let c := (inCall .outgoing .traffic .attended).calls
       c.state = .outgoing ∧ c.phase = some .traffic ∧ c.wruPending = false ∧ c.capturing = false) ∧ r0.calls.state = .idle
    ∧ (r0.ch0 = none ∧ r0.ch1 = none ∧ (localKeys .justPrinter []).kb.mode = .loc ∧ r0.kb.mode = .line
      ∧ r0.line.holder ≠ some .keyboard ∧ .keyboard ∉ r0.line.requests)
    ∧ (let w : ChanWork := ⟨.pending, 1, 0, ⟨true, false, false, false⟩, .sendKey, false, .port .s, none⟩
       let s := closed.setChan .ch0 (some w)
       s.ch0 = some w ∧ s.chan .ch0 = some w ∧ s.ch1 = none ∧ w.phase = .pending ∧ w.trigger = .sendKey ∧ w.position = 0 ∧ w.copy = none
       ∧ s.line.holder ≠ some (.chan .ch0) ∧ .chan .ch0 ∉ s.line.requests
       ∧ s.store.find w.message = some (msg 1 .closed none two) ∧ two = ⟨0, 2, false⟩ :: [] ∧ s.store.wrongOf 0 = []) := by decide

/-- The message of KEYBOARD, number 1, in block 0. -/
def key1 : Record := msg 1 .opened (some .keyboard) two

theorem witness_KeyboardHeadIsDelivered :
    (let idle := fun row => (localKeys row [sL 3, sL 21]).setPrinter { r0.printer with engine := .idle, op := none }
     (idle .justPrinter).kb.typeahead = sL 3 :: [sL 21] ∧ (idle .justPrinter).kb.mode = .loc
     ∧ (idle .justPrinter).line.holder ≠ some .keyboard
     ∧ ((idle .justPrinter).dist.rowLocal = ⟨false, true, false, false⟩ ∧ (idle .justPrinter).printer.offer = .takes)
     ∧ (idle ⟨false, false, true, false⟩).punch.offer = .takes
     ∧ (let s := (idle ⟨false, true, true, false⟩).setPunch { r0.punch with engine := .busy, queue := List.replicate 64 (sN 0) }
        s.dist.rowLocal = ⟨false, true, true, false⟩ ∧ s.printer.offer ≠ .permanent ∧ s.punch.offer = .forTime
        ∧ s.line.holder = none ∧ s.line.requests = [] ∧ s.line.abState = .none))
    ∧ (let s := r0.setDist { r0.dist with rowLine := ⟨false, true, false, true⟩ }
       s.kb.mode = .line ∧ s.dist.rowLine.transmitter = false ∧ s.dist.rowLine.store = true ∧ s.printer.offer = .takes
       ∧ s.store.slotKeyboard = none)
    ∧ (let t : Store := { opened.store with directory := [key1], slotS := none, slotKeyboard := some 1 }
       t.slotKeyboard = some 1 ∧ t.find 1 = some key1 ∧ key1.kind = .prepared ∧ t.Sound ∧ t.Clean key1 ∧ 17 < t.free.length) := by
  refine ⟨by decide, by decide, rfl, by decide, rfl, one_message_sound rfl rfl rfl rfl rfl rfl rfl, fun _ _ _ => rfl, ?_⟩
  show 17 < (List.range' 1 511).length
  rw [List.length_range']; omega

theorem witness_MessagesAreCreated :
    1 < (2 : Byte).toNat ∧ ((1 : Byte).toNat ≤ 1 ∧ (0 : Byte).toNat ≤ 1 ∧ opened.store.slot (.port .s) ≠ none)
    ∧ (r0.store.slot .keyboard = none ∧ r0.store.directory.length ≤ 43 ∧ 1 ≤ r0.store.counter ∧ r0.store.counter ≤ 9999)
    ∧ (let t := { r0.store with directory := List.replicate 44 (msg 1 .closed none []) }
       t.slot .keyboard = none ∧ 44 ≤ t.directory.length) := by decide

/-- What opened holds. -/
def inOpened : Record := msg 1 .opened (some (.port .s)) two

/-- The store in which it is open, with no block free and with bits of block 0 gone wrong. -/
def tight : Store := { opened.store with free := [], retired := List.range' 1 511 }
def wrong (bits : List Nat) : Store := { opened.store with wrongBits := [(0, bits)] }

theorem tight_sound : tight.Sound := by
  refine { opened_store_sound with blocks := ?_ }
  have h := opened_store_sound.blocks
  rwa [show opened.store.retired = [] from rfl, List.append_nil] at h

theorem witness_TextIsAppended :
    1 ≤ [(0x23 : Byte)].length ∧ (List.replicate 32 (0x23 : Byte)).length ≤ 32 ∧ (∀ r ∈ opened.store.directory, r.number ≠ (2 : Half).toNat)
    ∧ (opened.store.find (1 : Half).toNat = some inOpened ∧ inOpened.state = .opened ∧ inOpened.holder = some (.port .s)
      ∧ inOpened.holder ≠ some (.port .x))
    ∧ (closed.store.find (1 : Half).toNat = some (msg 1 .closed none two) ∧ (msg 1 .closed none two).state ≠ .opened)
    ∧ (∃ b ∈ [(0x7F : Byte)], ¬ SymbolPasses b) ∧ (∀ b ∈ [(0x23 : Byte)], SymbolPasses b)
    ∧ (let r := msg 1 .opened (some (.port .s)) []
       (∀ b, r.chain.getLast? = some b → b.damaged = true ∨ 32 ≤ b.fill) ∧ r.kind = .prepared
       ∧ ({ r0.store with free := List.range 16 } : Store).free.length ≤ 16)
    ∧ (opened.store.Sound ∧ opened.store.Clean inOpened ∧ opened.ch0 = none ∧ opened.ch1 = none ∧ 16 < opened.store.free.length)
    ∧ (tight.Sound ∧ tight.find (1 : Half).toNat = some inOpened ∧ tight.Clean inOpened ∧ tight.free.length ≤ 16
      ∧ inOpened.chain.getLast? = some ⟨0, 2, false⟩ ∧ 30 = min (List.replicate 31 (0x23 : Byte)).length (32 - 2)
      ∧ 30 ≠ (List.replicate 31 (0x23 : Byte)).length ∧ 1 = min [(0x23 : Byte)].length (32 - 2))
    ∧ (inOpened.chain = [] ++ [⟨0, 2, false⟩] ∧ (wrong [9]).wrongOf 0 = [9] ∧ (wrong [9, 256]).wrongOf 0 = [9, 256]
      ∧ (wrong [9]).Sound ∧ (wrong [9, 256]).Sound ∧ (wrong [9]).find (1 : Half).toNat = some inOpened) := by
  have passes : SymbolPasses 0x23 := by unfold SymbolPasses; decide
  refine ⟨by decide, by decide, by decide, by decide, by decide, ⟨0x7F, by simp, by unfold SymbolPasses; decide⟩, ?_,
    ⟨?_, by decide, by decide⟩,
    ⟨opened_store_sound, ?_, rfl, rfl, ?_⟩, ⟨tight_sound, by decide, fun _ _ _ => rfl, by decide, by decide, by decide, by decide, by decide⟩,
    ⟨rfl, by decide, by decide, { opened_store_sound with }, { opened_store_sound with }, by decide⟩⟩
  · intro b h; rw [List.mem_singleton] at h; subst h; exact passes
  · intro b h; simp [msg] at h
  · intro b _ _; rfl
  · show 16 < (List.range' 1 511).length
    rw [List.length_range']; omega

theorem witness_TextIsReadBack :
    (∀ r ∈ closed.store.directory, r.number ≠ (2 : Half).toNat)
    ∧ closed.store.find (1 : Half).toNat = some (msg 1 .closed none two)
    ∧ (32 < (33 : Byte).toNat ∧ (two.map (·.fill)).sum < (3 : Half).toNat)
    ∧ (1 ≤ (32 : Byte).toNat ∧ (32 : Byte).toNat ≤ 32 ∧ (2 : Half).toNat ≤ (two.map (·.fill)).sum)
    ∧ closed.store.Clean (msg 1 .closed none two) ∧ (∀ b ∈ two, b.fill ≤ 32)
    ∧ ∀ y ∈ closed.store.textOf (1 : Half).toNat, Symbol.ofByte? y ≠ none := by
  refine ⟨by decide, by decide, by decide, by decide, fun b _ _ => rfl, by decide, by decide⟩

theorem witness_MessagesCloseAndGo :
    (∀ r ∈ opened.store.directory, r.number ≠ (2 : Half).toNat)
    ∧ (opened.store.find (1 : Half).toNat = some inOpened ∧ inOpened.state = .opened ∧ inOpened.holder = some (.port .s)
      ∧ Port.s ≠ .x ∧ (∀ q, Holder.port .s = .port q → q = .s) ∧ opened.ch0 = none ∧ opened.ch1 = none
      ∧ inOpened.readers = 0 ∧ inOpened.delivery ≠ .sending
      ∧ (inOpened.state = .opened → inOpened.holder ≠ some .line ∧ ∀ q, inOpened.holder = some (.port q) → q = .s))
    ∧ (closed.store.find (1 : Half).toNat = some (msg 1 .closed none two) ∧ (msg 1 .closed none two).state ≠ .opened)
    ∧ 0 < ({ inOpened with readers := 1 } : Record).readers := by
  refine ⟨by decide, ⟨by decide, rfl, rfl, by decide, ?_, rfl, rfl, rfl, by decide, fun _ => ⟨by decide, ?_⟩⟩, by decide, by decide⟩
  · intro q h; cases h; rfl
  · intro q h; cases q with
    | s => rfl
    | x => exact absurd h (by decide)

theorem witness_RecordsAreReadAndSet :
    (1 : Byte).toNat ≤ 1 ∧ closed.store.directory[(0 : Half).toNat]? = some (msg 1 .closed none two)
    ∧ closed.store.directory.length ≤ (1 : Half).toNat ∧ (closed.store.directory.map (·.number)).Nodup
    ∧ (msg 1 .closed none two).number = (1 : Half).toNat ∧ (∀ r ∈ closed.store.directory, r.number ≠ (0 : Half).toNat)
    ∧ 2 < (3 : Byte).toNat ∧ 1 < (2 : Byte).toNat
    ∧ closed.store.find (1 : Half).toNat = some (msg 1 .closed none two)
    ∧ ((msg 1 .closed none two).kind = .prepared ∧ (msg 1 .closed none two).delivery ≠ .sending) ∧ line1.kind = .received
    ∧ ({ msg 1 .closed none two with delivery := .sending } : Record).delivery = .sending
    ∧ (20 < (List.replicate 21 (0x7F : Byte)).length ∧ 16 < (List.replicate 17 (9 : Byte)).length ∧ (∃ d ∈ [(10 : Byte)], 9 < d.toNat))
    ∧ ¬ (((7 : Byte).getLsbD 0 = true ∧ (20 < (List.replicate 20 (0x7F : Byte)).length ∨ ∃ b ∈ List.replicate 20 (0x7F : Byte), b ≠ 0x7F
          ∧ ∀ y : Machine.Symbol, y.wellFormed = true → y.kind ≠ .explicitShift → y.kind ≠ .blank → y.toByte ≠ b))
      ∨ ((7 : Byte).getLsbD 1 = true ∧ (16 < (List.replicate 16 (9 : Byte)).length ∨ ∃ d ∈ List.replicate 16 (9 : Byte), 9 < d.toNat))
      ∨ ((7 : Byte).getLsbD 2 = true ∧ 2 < (2 : Byte).toNat)) := by
  refine ⟨by decide, by decide, by decide, by decide, by decide, by decide, by decide, by decide, by decide, by decide, by decide,
    by decide, by decide, ?_⟩
  rintro (⟨-, h | ⟨b, hb, h, -⟩⟩ | ⟨-, h⟩ | ⟨-, h⟩)
  · exact absurd h (by decide)
  · exact h (List.eq_of_mem_replicate hb)
  · exact absurd h (by decide)
  · exact absurd h (by decide)

/-- A CLOSED message that carries PRINT OWED. -/
def owedMsg : Record := { msg 1 .closed none two with printOwed := true }

/-- A store with that message after one that is not owed, everything else IDLE. -/
def owed : State := (stored owedMsg).setPrinter { r0.printer with engine := .idle, op := none }

/-- The drain's CH1 at a position of that message. -/
def draws (position : Nat) : ChanWork :=
  ⟨.running, 1, position, ⟨false, true, false, false⟩, .now, true, .sequencer, some ⟨0, [sL 3, sL 3], true⟩⟩
def draining : State := { owed with ch1 := some (draws 1), calls := { owed.calls with drain := some 1 } }

theorem witness_OwedMarksAreServed :
    owed.store.find (1 : Half).toNat = some owedMsg ∧ ((16 : Byte) ≠ 4 ∧ (16 : Byte) ≠ 8 ∧ (16 : Byte) ≠ 12)
    ∧ (owed.store.directory.map (·.number)).Nodup ∧ owed.store.directory = [] ++ owedMsg :: []
    ∧ owedMsg.printOwed = true ∧ owedMsg.state ≠ .opened ∧ owed.calls.autoDrain = true ∧ owed.calls.state = .idle ∧ owed.calls.drain = none
    ∧ owed.printer.engine = .idle ∧ owed.ch1 = none ∧ owedMsg.chain = ⟨0, 2, false⟩ :: [] ∧ 1 ≤ 2 ∧ owed.store.wrongOf 0 = []
    ∧ owedMsg ∈ owed.store.directory ∧ (stored owedMsg).printer.engine ≠ .idle
    ∧ (draining.ch1 = some (draws 1) ∧ (draws 1).starter = .sequencer ∧ draining.calls.auto = none ∧ draining.calls.coll = none
      ∧ draining.calls.drain = some (draws 1).message ∧ (draws 1).phase = .running ∧ (draws 1).sinks = ⟨false, true, false, false⟩
      ∧ draining.store.find (draws 1).message = some owedMsg ∧ owedMsg.chain = [] ++ [⟨0, 2, false⟩]
      ∧ (draws 1).position = (([] : List ChainBlock).map (·.fill)).sum + 1 ∧ 1 + 1 = 2
      ∧ (draws 1).copy = some ⟨([] : List ChainBlock).length, [sL 3, sL 3], true⟩ ∧ [sL 3, sL 3][1]? = some (sL 3)
      ∧ draining.printer.offer = .takes)
    ∧ ∀ why, (draws 1).phase ≠ .held why := by
  refine ⟨by decide, by decide, by decide, rfl, by decide, by decide, by decide, by decide, by decide, by decide, by decide, rfl, by decide,
    by decide, List.mem_singleton.2 rfl, by decide, by decide, fun why => by simp [draws]⟩

theorem opened_holds {b idx : Nat} {r : Record} : opened.store.Holds b r idx ↔ b = 0 ∧ r = inOpened ∧ idx = 0 := by
  constructor
  · rintro ⟨hr, k, hk, rfl, -⟩
    rw [show opened.store.directory = [inOpened] from rfl, List.mem_singleton] at hr
    subst hr
    match idx, hk with
    | 0, hk => cases hk; exact ⟨rfl, rfl, rfl⟩
    | n + 1, hk => simp [inOpened, msg, two] at hk
  · rintro ⟨rfl, rfl, rfl⟩
    exact ⟨List.mem_singleton.2 rfl, _, rfl, rfl, rfl⟩

theorem witness_TheScrubberAndTheClockRun :
    (∀ b r idx, ¬ r0.store.Holds b r idx) ∧ (opened.store.Sound ∧ opened.ch0 = none ∧ opened.ch1 = none ∧ opened.store.Holds 0 inOpened 0)
    ∧ ((∀ c q j, opened.store.Holds c q j → c ≤ opened.store.scrubPos) ∧ ∀ c q j, opened.store.Holds c q j → 0 ≤ c)
    ∧ (opened.store.wrongOf 0 = [] ∧ (wrong [9]).wrongOf 0 = [9] ∧ (wrong [9, 256]).wrongOf 0 = [9, 256]) := by
  refine ⟨?_, ⟨opened_store_sound, rfl, rfl, opened_holds.2 ⟨rfl, rfl, rfl⟩⟩, ⟨?_, fun _ _ _ _ => Nat.zero_le _⟩, by decide⟩
  · rintro b r idx ⟨h, -⟩; exact absurd h (by simp [r0, State.reset, Store.afterCold])
  · intro c q j h; rw [(opened_holds.1 h).1]; exact Nat.zero_le _

/-- CH0 at work on message 1 in a phase, at a position, PRINTER its set. -/
def work (phase : ChPhase) (position : Nat) : ChanWork :=
  ⟨phase, 1, position, ⟨false, true, false, false⟩, .now, true, .port .s, some ⟨0, [sL 3, sL 3], true⟩⟩

theorem witness_ChannelsStart :
    1 < (2 : Byte).toNat ∧ (0 : Byte) = (if Chan.ch0 = .ch0 then 0 else 1) ∧ (1 : Byte) = (if Chan.ch1 = .ch0 then 0 else 1)
    ∧ (closed.setChan .ch0 (some (work .running 0))).chan .ch0 ≠ none
    ∧ (closed.chan .ch0 = none ∧ (∀ r ∈ closed.store.directory, r.number ≠ (2 : Half).toNat)
      ∧ closed.store.find (1 : Half).toNat = some (msg 1 .closed none two))
    ∧ ((two.map (·.fill)).sum < (3 : Half).toNat ∧ 7 < (8 : Byte).toNat ∧ 2 < (3 : Byte).toNat)
    ∧ ((2 : Half).toNat ≤ (two.map (·.fill)).sum ∧ 1 ≤ (1 : Byte).toNat ∧ (7 : Byte).toNat ≤ 7)
    ∧ (two = [] ++ ⟨0, 2, false⟩ :: [] ∧ (([] : List ChainBlock).map (·.fill)).sum ≤ (1 : Half).toNat
      ∧ (1 : Half).toNat < (([] : List ChainBlock).map (·.fill)).sum + 2 ∧ closed.store.wrongOf 0 = []
      ∧ closed.printer.engine ≠ .fault ∧ closed.punch.engine ≠ .off ∧ closed.line.holder ≠ some (.chan .ch0)
      ∧ .chan .ch0 ∉ closed.line.requests)
    ∧ ((1 : Byte).getLsbD 0 = true ∧ (⟨0, 2, true⟩ : ChainBlock).damaged = true ∧ (2 : Byte) ≠ 0 ∧ 1 ≤ (1 : Byte).toNat) := by decide

theorem witness_ChannelsAreCommanded :
    1 < (2 : Byte).toNat ∧ closed.chan .ch0 = none
    ∧ (let s := closed.setChan .ch0 (some (work .running 0)); s.chan .ch0 = some (work .running 0) ∧ ∃ q, (work .running 0).starter = .port q)
    ∧ (∀ why, (work .running 0).phase ≠ .held why)
    ∧ ((∃ why, (work (.held .command) 0).phase = .held why) ∧ ({ work (.held .command) 0 with occurred := false } : ChanWork).occurred = false)
    ∧ (let w := work (.held .command) 1
       w.occurred = true ∧ closed.store.find w.message = some (msg 1 .closed none two) ∧ two = [] ++ ⟨0, 2, false⟩ :: []
       ∧ (([] : List ChainBlock).map (·.fill)).sum ≤ w.position ∧ w.position < (([] : List ChainBlock).map (·.fill)).sum + 2
       ∧ w.copy = some ⟨([] : List ChainBlock).length, [sL 3, sL 3], true⟩ ∧ closed.store.wrongOf 0 = [])
    ∧ (∀ held, ({ work (.held .command) 0 with copy := none } : ChanWork).copy ≠ some ⟨0, held, true⟩)
    ∧ ((work (.held .command) 0).sinks.printer = true ∧ closed.printer.engine ≠ .fault ∧ (work (.held .command) 0).sinks.punch = false
      ∧ ({ closed.printer with engine := .fault } : Printer).engine = .fault)
    ∧ ((work (.held .command) 2).position = (two.map (·.fill)).sum ∧ (msg 1 .closed none two).state ≠ .opened
      ∧ inOpened.state = .opened) :=
  ⟨by decide, rfl, ⟨rfl, .s, rfl⟩, fun why => by simp [work], ⟨⟨.command, rfl⟩, rfl⟩, by decide, fun _ h => by simp at h, by decide,
    by decide⟩

theorem witness_ChannelsDeliver :
    (let s := closed.setChan .ch0 (some (work .running 1))
     s.chan .ch0 = some (work .running 1) ∧ (work .running 1).phase = .running ∧ (work .running 1).sinks.transmitter = false
     ∧ (∃ q, (work .running 1).starter = .port q) ∧ s.store.find (work .running 1).message = some (msg 1 .closed none two)
     ∧ two = [] ++ ⟨0, 2, false⟩ :: [] ∧ (work .running 1).position = (([] : List ChainBlock).map (·.fill)).sum + 1 ∧ 1 < 2
     ∧ (work .running 1).copy = some ⟨([] : List ChainBlock).length, [sL 3, sL 3], true⟩ ∧ [sL 3, sL 3][1]? = some (sL 3)
     ∧ s.printer.offer = .takes ∧ 1 + 1 = 2 ∧ (∀ k ∈ ([] : List ChainBlock), k.fill = 0) ∧ (msg 1 .closed none two).state ≠ .opened)
    ∧ (0 + 1 < 2 ∧ (work .running 0).position = 0 + 0) ∧ inOpened.state = .opened := by
  refine ⟨⟨rfl, rfl, rfl, ⟨.s, rfl⟩, by decide, rfl, rfl, by decide, rfl, rfl, by decide, rfl, by simp, by decide⟩, by decide, rfl⟩

/-- CH0 with the grant, at work on message 1 from its first symbol, started by a port or by the sequencer. -/
def sending (r : Record) (starter : Starter) (position : Nat) (c : Calls) : State :=
  { (stored r).setChan .ch0 (some ⟨.running, 1, position, ⟨true, false, false, false⟩, .now, true, starter, some ⟨0, [sN 1, sL 3], true⟩⟩) with
    line := inFlight { r0.line with holder := some (.chan .ch0) }
    dist := { r0.dist with rowSent := ⟨false, false, false, false⟩ }
    calls := c }

theorem witness_ChannelsDeliver_transmitter :
    let s := sending (msg 1 .closed none two) (.port .s) 0 r0.calls
    s.line.txChar = some ⟨21, 96, false⟩ ∧ s.kb.typeahead = [] ∧ .keyboard ∉ s.line.requests ∧ s.line.holder = some (.chan .ch0)
    ∧ s.line.abState = .none ∧ s.line.txEnable = true ∧ s.line.pendingRate = none ∧ s.dist.rowSent = ⟨false, false, false, false⟩
    ∧ s.store.slotLine = none ∧ s.calls.state = .idle ∧ s.store.find 1 = some (msg 1 .closed none two)
    ∧ two = [] ++ ⟨0, 2, false⟩ :: [] ∧ 0 + 1 < 2 ∧ [sN 1, sL 3][0]? = some (sN 1)
    ∧ (emission s.line.txCase (sN 1)).1 = false ∧ (emission s.line.txCase (sL 3)).1 = true := by decide

/-! The hypotheses on a break: a state in which it is declared with channels at work, by each of the three commands that declare one. -/

/-- A space period with CH0 at work for a port. -/
def breaking : State := (spacing false).setChan .ch0 (some (work .running 0))

theorem breaking_unheeded : breaking.Unheeded :=
  .inl fun ch w h => ⟨.s, by cases ch <;> cases h; rfl⟩

theorem witness_BreaksAreDeclaredAndEnd_channels :
    breaking.line.rx = .spacingHold ∧ breaking.line.breakDeclared = false ∧ breaking.ch0 ≠ none ∧ breaking.Unheeded :=
  ⟨rfl, rfl, by decide, breaking_unheeded⟩

/-- The lowest break time, reached and one millisecond before it. -/
theorem witness_LineSettingsAreStored_break :
    (4 : Byte).getLsbD 0 = false ∧ (4 : Byte).getLsbD 2 = true ∧ breaking.line.rx = .spacingHold ∧ breaking.line.breakDeclared = false
    ∧ max 100 (min 2000 (100 : Half).toNat) / 10 * 10 ≤ 100 ∧ 99 < max 100 (min 2000 (100 : Half).toNat) / 10 * 10 ∧ breaking.Unheeded :=
  ⟨rfl, rfl, rfl, rfl, by decide, by decide, breaking_unheeded⟩

/-- Five spaces at the slowest rate since the fall of the start edge, at the stop sample, with the lowest break time and with the next. -/
def lateSpace (ms : Nat) : State :=
  ((assembling 0 (List.replicate 5 false)).setLine { (assembling 0 (List.replicate 5 false)).line with
    rate := 0, lastFall := 0, breakMs := ms }).setPins ⟨false, false⟩

/-- The break is due at 100 ms and not yet at 150 ms, and the state that the stop sample leaves before it is heeded by nothing. -/
theorem witness_StopSampleDelivers_break :
    (let s := lateSpace 100
     s.line.rx = .assembling ∧ s.line.units.length = 5 ∧ s.pins.lineMark = false
     ∧ s.line.breakMs * 49152 ≤ (416 - s.line.lastFall) * Config.divisor s.line.rate * 10)
    ∧ ¬ (lateSpace 150).line.breakMs * 49152 ≤ (416 - (lateSpace 150).line.lastFall) * Config.divisor (lateSpace 150).line.rate * 10
    ∧ (after .stopSample (lateSpace 150)).Unheeded
    ∧ (after .stopSample (lateSpace 100)).line.breakDeclared = true ∧ (after .stopSample (lateSpace 150)).line.breakDeclared = false :=
  ⟨by decide, by decide, .inr ⟨by decide, by decide⟩, by decide, by decide⟩

/-- A requester that holds the grant, with and without another in the list, one that is listed and one in neither place. -/
theorem witness_TheGrantPasses_leave :
    (granted.line.holder = some .keyboard ∧ granted.line.requests.filter (fun q => q ≠ .keyboard) = .chan .ch0 :: []
      ∧ granted.line.txEnable = true ∧ granted.line.pendingRate = none)
    ∧ ({ granted.line with requests := [] } : LineUnit).requests.filter (fun q => q ≠ .keyboard) = []
    ∧ (granted.line.holder ≠ some (.chan .ch0) ∧ .chan .ch0 ∈ granted.line.requests)
    ∧ (granted.line.holder ≠ some .control ∧ .control ∉ granted.line.requests)
    ∧ (let l := { granted.line with holder := none }
       l.holder = none ∧ l.txEnable = true ∧ l.pendingRate = none ∧ l.requests = .chan .ch0 :: []) := by decide

/-- A CLEAR OWED of a number that no record carries. -/
theorem witness_OwedMarksAreServed_no_such : ∀ r ∈ owed.store.directory, r.number ≠ (2 : Half).toNat := by decide

/-- A block that ends, with a sound and with a DAMAGED block of one symbol after it, and with a block that is not full as the last. -/
theorem witness_ChannelsDeliver_crossing :
    ([⟨0, 2, false⟩, ⟨1, 1, false⟩] : List ChainBlock) = [] ++ ⟨0, 2, false⟩ :: [⟨1, 1, false⟩] ∧ 1 + 1 = 2
    ∧ (1 ≤ (⟨1, 1, false⟩ : ChainBlock).fill ∧ (⟨1, 1, false⟩ : ChainBlock).damaged = false ∧ closed.store.wrongOf 1 = [])
    ∧ (⟨1, 1, true⟩ : ChainBlock).damaged = true
    ∧ (let s := sending (msg 1 .closed none two) (.port .s) 1 r0.calls
       s.store.find 1 = some (msg 1 .closed none two) ∧ two = [] ++ ⟨0, 2, false⟩ :: [] ∧ [sN 1, sL 3][1]? = some (sL 3)
       ∧ (emission .letters (sL 3)).1 = false ∧ (∀ k ∈ ([] : List ChainBlock), k.fill = 0) ∧ (msg 1 .closed none two).state ≠ .opened)
    ∧ (msg 1 .opened none two).state = .opened := by decide

theorem witness_FormatsAreLoaded :
    ((8 : Byte).getLsbD 3 = true ∧ 1 < (2 : Byte).toNat) ∧ ((16 : Byte).getLsbD 4 = true ∧ 1 < (2 : Byte).toNat)
    ∧ (let presence : Byte := 0x1F
       ¬ ((presence.getLsbD 3 = true ∧ 1 < (1 : Byte).toNat) ∨ (presence.getLsbD 4 = true ∧ 1 < (1 : Byte).toNat))
       ∧ presence.getLsbD 0 = true)
    ∧ ¬ ((0 : Byte).getLsbD 0 = true ∨ (0 : Byte).getLsbD 1 = true ∨ (0 : Byte).getLsbD 2 = true ∨ (0 : Byte).getLsbD 3 = true
      ∨ (0 : Byte).getLsbD 4 = true)
    ∧ (owed.printer.engine = .idle ∧ owed.printer.queue = [] ∧ owed.printer.followOn = .none
      ∧ owed.printer.column = owed.printer.active.margin)
    ∧ (r0.printer.engine ≠ .idle ∧ r0.printer.op = some (.carriageReturn .homing none none)) := by decide

/-- The printer with an operation in flight at a column of its line of 69. -/
def printing (op : PrintOp) (column : Nat) (paperOut : Bool) (follow : FollowOn) (queue : List Machine.Symbol) : State :=
  r0.setPrinter { r0.printer with op := some op, column := column, paperOut := paperOut, followOn := follow, queue := queue }

/-- A carriage return that has reached home. -/
def home (cause : CrCause) : PrintOp := .carriageReturn cause (some 68) (some ⟨.afterReset, false, false⟩)

theorem witness_PrinterCompletes :
    (let s := printing (.advance (sL 3)) 68 false .none [sL 3]
     s.printer.op = some (.advance (sL 3)) ∧ s.printer.followOn = .none ∧ s.printer.paperOut = false ∧ s.printer.queue = sL 3 :: []
     ∧ s.printer.active.mode = .hold ∧ (sL 3).kind = .printable ∧ s.printer.active.lineLength - 1 ≤ s.printer.column)
    ∧ (let f : Format := { Format.afterReset with mode := .wrap }
       f.mode = .wrap ∧ f.lineLength - 1 ≤ 68 ∧ ¬ f.lineLength - 1 ≤ 67)
    ∧ (printing (.advance (sL 3)) 68 true .none []).printer.paperOut = true
    ∧ (let s := printing (home .wrap) 68 false .crLf []
       s.printer.op = some (home .wrap) ∧ s.printer.paperOut = false ∧ CrCause.wrap ≠ .restart ∧ s.printer.followOn = .crLf)
    ∧ (let s := printing (home .queue) 68 false .none []
       s.printer.op = some (home .queue) ∧ s.printer.followOn = .none ∧ s.printer.queue = []
       ∧ ¬ (CrCause.queue = .wrap ∨ (CrCause.queue = .queue ∧ s.printer.active.crAddsLf = true)))
    ∧ (let s := printing (.lineFeed 2) 0 false .none []
       s.printer.op = some (.lineFeed 2) ∧ s.printer.followOn = .none ∧ s.printer.paperOut = false ∧ s.printer.queue = [])
    ∧ (r0.printer.engine ≠ .idle ∧ owed.printer.engine = .idle ∧ owed.printer.followOn = .none ∧ owed.printer.queue = []
      ∧ (sN 1).kind = .cr ∧ (sN 2).kind = .lf ∧ (sF 12).kind = .bell ∧ (sN 0).kind = .blank ∧ (sN 30).kind = .explicitShift
      ∧ (sF 6).kind = .wru)
    ∧ (let s := printing (.advance (sL 3)) 67 false .none [sF 12, sN 0, sN 1, sL 3]
       s.printer.op = some (.advance (sL 3)) ∧ s.printer.followOn = .none ∧ s.printer.paperOut = false
       ∧ s.printer.queue = [sF 12, sN 0] ++ sN 1 :: [sL 3] ∧ ¬ s.printer.active.lineLength - 1 ≤ s.printer.column) := by decide

theorem witness_PrinterStopsAndRestarts :
    ((∃ cause start, r0.printer.op = some (.carriageReturn cause start none)) ∧ r0.ch0 = none ∧ r0.ch1 = none)
    ∧ (let r := { r0.printer with engine := .fault, op := none }; r.engine = .fault ∧ r.restart = false
       ∧ ({ r with restart := true } : Printer).restart = true) ∧ r0.printer.engine ≠ .fault ∧ owed.printer.engine = .idle
    ∧ (let r := { r0.printer with engine := .stopped, op := none, paperOut := true }
       r.engine = .stopped ∧ r.followOn = .none ∧ r.queue = [])
    ∧ (let s := printing (home .restart) 68 true .none []
       s.printer.op = some (.carriageReturn .restart (some 68) (some ⟨.afterReset, false, false⟩)) ∧ s.printer.followOn = .none
       ∧ s.printer.queue = [] ∧ s.printer.paperOut = true)
    ∧ (let s := (localKeys .justPrinter [sL 3]).setLine (inFlight r0.line)
       s.kb.typeahead ≠ [] ∧ (if s.kb.mode = .line then s.dist.rowLine else s.dist.rowLocal).printer = true
       ∧ s.line.txChar ≠ none ∧ s.line.holder ≠ some .keyboard ∧ .keyboard ∉ s.line.requests) :=
  ⟨⟨⟨.homing, none, rfl⟩, rfl, rfl⟩, by decide, by decide, by decide, by decide, by decide, by decide⟩

/-- The punch with an engine state, a queue and rows in flight. -/
def punching (engine : PuEngine) (queue : List Machine.Symbol) (rows : List (BitVec 5)) : State :=
  r0.setPunch { r0.punch with engine := engine, queue := queue, rows := rows }

theorem witness_PunchFeedJoinsBlanks :
    min 255 (0 : Half).toNat = 0 ∧ min 255 (300 : Half).toNat = 255 ∧ (punching .off [] []).punch.engine = .off
    ∧ 64 < (punching .busy [sN 0] [0]).punch.queue.length + min 255 (64 : Half).toNat
    ∧ (punching .busy [] [0]).punch.queue.length + min 255 (64 : Half).toNat ≤ 64 ∧ (punching .busy [] [0]).punch.engine ≠ .idle
    ∧ (r0.punch.engine = .idle ∧ r0.punch.queue = []) := by decide

theorem witness_PunchRowsComplete :
    ((punching .busy [sF 23] [3]).punch.rows = 3 :: [] ∧ (punching .busy [sF 23] [3]).punch.engine = .busy
      ∧ (punching .busy [sF 23] [3]).punch.queue = sF 23 :: [] ∧ (punching .busy [sF 23] [3]).punch.switchOff = false
      ∧ (punching .busy [sF 23] [3]).punch.portOff = false
      ∧ ¬ ((punching .busy [sF 23] [3]).punch.tapeOut = true ∨ (punching .busy [sF 23] [3]).punch.counter = some 1))
    ∧ ((punching .busy [] [30, 23]).punch.rows = 30 :: 23 :: [])
    ∧ (let u := { (punching .busy [] [3]).punch with switchOff := true, firstOff := some .switch }
       u.switchOff = true ∧ u.firstOff = some .switch ∧ r0.ch0 = none ∧ r0.ch1 = none)
    ∧ ({ (punching .busy [] [3]).punch with counter := some 1 } : Punch).counter = some 1
    ∧ (punching .busy [] [3]).punch.queue = []
    ∧ ((punching .busy [] [3]).punch.engine ≠ .idle ∧ r0.punch.engine = .idle ∧ r0.punch.queue = []
      ∧ (sF 23).cls = .figures ∧ r0.punch.caseNow ≠ .figures) := by decide

/-- An engine that is IDLE, OFF or in TAPE-OUT with a symbol in its queue. -/
theorem witness_punch_takes_its_queue :
    (let u := (punching .idle [sF 23] []).punch
     u.engine = .idle ∧ u.queue = sF 23 :: [] ∧ min 255 (63 : Half).toNat ≠ 0 ∧ u.queue.length + min 255 (63 : Half).toNat ≤ 64)
    ∧ (let u := { (punching .off [sF 23] []).punch with switchOff := true, firstOff := some .switch }
       u.portOff = false ∧ u.engine = .off ∧ u.tapeOut = false ∧ u.queue = sF 23 :: [])
    ∧ (let u := { (punching .tapeOut [sF 23] []).punch with tapeOut := true }
       u.tapeOut = true ∧ u.tapeLow = false ∧ u.engine = .tapeOut ∧ u.queue = sF 23 :: []) := by decide

theorem witness_PunchOffMarksAct :
    (r0.ch0 = none ∧ r0.ch1 = none ∧ r0.punch.engine = .idle)
    ∧ (∃ p, false = false ∧ OffCause.command = .command ∧ Instr.punchOff .s = .punchOff p)
    ∧ (true = true ∧ OffCause.switch = .switch ∧ Instr.punchSwitchOn = .punchSwitchOn)
    ∧ (punching .tapeOut [] []).punch.engine = .tapeOut ∧ (punching .busy [] [0]).punch.engine = .busy
    ∧ (let u := { (punching .off [] []).punch with switchOff := true, firstOff := some .switch }
       u.portOff = false ∧ u.engine = .off ∧ u.tapeOut = false ∧ u.queue = [])
    ∧ ({ (punching .off [] []).punch with tapeOut := true } : Punch).tapeOut = true
    ∧ ({ (punching .off [] []).punch with portOff := true } : Punch).portOff = true :=
  ⟨by decide, ⟨.s, rfl, rfl, rfl⟩, by decide, by decide, by decide, by decide, by decide, by decide⟩

theorem witness_TapeSupplyIsWatched :
    (let u := { r0.punch with tapeLow := true, counter := some 0 }; u.tapeLow = true ∧ u.counter = some 0 ∧ u.tapeOut = false)
    ∧ (r0.punch.tapeLow = false ∧ r0.punch.allowance ≠ 0 ∧ r0.punch.counter ≠ some 0 ∧ r0.punch.tapeOut = false)
    ∧ ({ r0.punch with allowance := 0 } : Punch).allowance = 0
    ∧ (let u := { r0.punch with tapeOut := true, engine := .tapeOut }
       u.tapeOut = true ∧ u.tapeLow = false ∧ u.engine = .tapeOut ∧ u.queue = [])
    ∧ (let u := { r0.punch with tapeOut := true, engine := .busy, rows := [3] }; u.tapeOut = true ∧ u.engine ≠ .tapeOut)
    ∧ 1 < (2 : Byte).toNat ∧ (1 : Byte).toNat ≤ 1 := by decide

/-- The identity store with slot 0 in one state and an operation in flight. -/
def identity (k : IdSlot) (op : Option IdOp) : State :=
  r0.setIdent { r0.ident with slots := k :: List.replicate 7 .unwritten, op := op }

/-- Slot 0 with A in its first position. -/
def slotA : IdSlot := { IdSlot.unwritten with positions := 0x23 :: List.replicate 19 0xFF }

theorem witness_SlotsAreReadAndProgrammed :
    7 < (8 : Byte).toNat
    ∧ (r0.ident.slots[(7 : Byte).toNat]? = some .unwritten ∧ (7 : Byte).toNat ≤ 7 ∧ r0.ident.op = none ∧ IdSlot.unwritten.marker = false)
    ∧ (1 ≤ [(0x23 : Byte)].length ∧ (List.replicate 20 (0x23 : Byte)).length ≤ 20 ∧ 20 < (20 : Byte).toNat + [(0x23 : Byte)].length)
    ∧ ¬ (7 < (0 : Byte).toNat ∨ 20 < (19 : Byte).toNat + [(0x23 : Byte)].length ∨ ∃ b ∈ [(0x23 : Byte)], ¬ SymbolPasses b)
    ∧ (identity slotA (some .protect)).ident.op ≠ none
    ∧ (({ r0.ident with protect := true } : Identity).protect = true ∧ r0.ident.protect = false
      ∧ ({ slotA with marker := true } : IdSlot).marker = true)
    ∧ (∃ (j : Nat) (l : IdSlot), j < (1 : Byte).toNat ∧ r0.ident.slots[j]? = some l ∧ l.marker = false)
    ∧ ¬ (∃ (j : Nat) (l : IdSlot), j < (0 : Byte).toNat ∧ r0.ident.slots[j]? = some l ∧ l.marker = false)
    ∧ ({ slotA with count := [true, true, true, true] } : IdSlot).count.countP (fun w => w = false) = 0
    ∧ ((∀ j, j < 0 → IdSlot.unwritten.count[j]? = some true) ∧ IdSlot.unwritten.count[0]? = some false ∧ 184 + 0 ∉ IdSlot.unwritten.deadBits)
    ∧ ((identity .unwritten (some (.program 0 19 [0x23]))).ident.op = some (.program 0 19 [0x23])
      ∧ (identity .unwritten (some (.program 0 19 [0x23]))).ident.slots[0]? = some .unwritten ∧ IdSlot.unwritten.deadBits = []
      ∧ 19 + [(0x23 : Byte)].length ≤ IdSlot.unwritten.positions.length) := by
  refine ⟨by decide, by decide, by decide, by unfold SymbolPasses; decide, by decide, by decide, ⟨0, .unwritten, by decide, by decide, rfl⟩,
    ?_, by decide, ⟨?_, by decide, by decide⟩, by decide⟩
  · rintro ⟨j, l, h, -⟩; exact absurd h (Nat.not_lt_zero j)
  · intro j h; exact absurd h (Nat.not_lt_zero j)

/-- A READ SLOT while PROTECT and while a PROGRAM is in flight, of its slot and of another, and a first count cell that takes no write. -/
theorem witness_SlotsAreReadAndProgrammed_in_flight :
    (∀ n first text, (identity slotA (some .protect)).ident.op ≠ some (.program n first text))
    ∧ (let i := (identity .unwritten (some (.program 0 19 [0x23]))).ident
       i.op = some (.program 0 19 [0x23]) ∧ i.slots[0]? = some .unwritten ∧ IdSlot.unwritten.deadBits = []
       ∧ (i.slots.set 0 slotA)[(0 : Byte).toNat]? = some slotA ∧ (i.slots.set 0 slotA)[(1 : Byte).toNat]? = some .unwritten
       ∧ slotA.marker = false)
    ∧ (let k := { IdSlot.unwritten with deadBits := [184] }
       k.count[0]? = some false ∧ 184 + 0 ∈ k.deadBits ∧ k.marker = false) := by
  refine ⟨fun n first text h => ?_, by decide, by decide⟩
  cases h

theorem witness_SlotsAreCommitted :
    (7 < (8 : Byte).toNat ∧ (0 : Byte) = 0 ∧ 20 < (21 : Byte).toNat)
    ∧ ¬ (7 < (0 : Byte).toNat ∨ (1 : Byte) = 0 ∨ 20 < (1 : Byte).toNat)
    ∧ ((identity slotA none).ident.op = none ∧ (identity slotA none).ident.slots[(0 : Byte).toNat]? = some slotA ∧ slotA.marker = false)
    ∧ (∃ b ∈ slotA.positions.take (2 : Byte).toNat, ¬ SymbolPasses b)
    ∧ ¬ (∃ b ∈ slotA.positions.take (1 : Byte).toNat, ¬ SymbolPasses b)
    ∧ (let s := identity slotA (some (.commit 0 1 0 0))
       s.ident.slots[0]? = some slotA ∧ slotA.deadBits = [] ∧ s.ident.op = some (.commit 0 1 0 0) ∧ slotA.length &&& 1 = 1)
    ∧ (let k : IdSlot := { slotA with length := 0, check := 0 }; k.length &&& 1 ≠ 1 ∧ k.check &&& 5 ≠ 5)
    ∧ (identity slotA (some (.commit 0 1 5 1))).ident.op = some (.commit 0 1 5 1) ∧ slotA.check &&& 5 = 5
    ∧ (identity slotA (some (.commit 0 1 5 2))).ident.op = some (.commit 0 1 5 2)
    ∧ ((identity slotA (some .protect)).ident.op = some .protect ∧ r0.ident.protectDead = false)
    ∧ (identity slotA (some (.protectedFail true 0))).ident.op = some (.protectedFail true 0) := by
  refine ⟨by decide, by decide, by decide, ⟨0xFF, by decide, by unfold SymbolPasses; decide⟩, by unfold SymbolPasses; decide, by decide, by decide,
    by decide, by decide, by decide,
    by decide, by decide⟩

theorem witness_CallsStart :
    (inCall .clearing .traffic .attended).calls.state ≠ .idle ∧ (r0.calls.state = .idle ∧ r0.calls.drain = none ∧ r0.calls.mode = .attended)
    ∧ (let c := { r0.calls with mode := .unattended }; c.mode = .unattended ∧ c.identify = true ∧ c.settle ≠ 0)
    ∧ ({ r0.calls with settle := 0 } : Calls).settle = 0 ∧ ({ r0.calls with identify := false } : Calls).identify = false
    ∧ (∀ ch w, r0.chan ch = some w → w.phase = .pending → w.trigger ≠ .callOut)
    ∧ ({ r0.calls with settleT := some 2 } : Calls).settleT = some 2 ∧ r0.calls.settleT = none
    ∧ (r0.setLine (inFlight r0.line)).Engaged := by
  refine ⟨by decide, by decide, by decide, by decide, by decide, ?_, by decide, by decide, witness_Engaged⟩
  intro ch w h; cases ch <;> exact absurd h (by simp [State.chan, r0, State.reset])

theorem witness_CallsEnd :
    r0.calls.state = .idle ∧ (r0.calls.breakGuardT = false ∧ r0.calls.clearGuardT = false ∧ r0.calls.idleT = none)
    ∧ (let s := inCall .incoming .traffic .unattended
       s.calls.state ≠ .idle ∧ (s.ch0 = none ∧ s.ch1 = none ∧ s.calls.auto = none ∧ s.calls.capturing = false
         ∧ ∀ n, s.store.slotLine = some n → ∃ r, s.store.find n = some r ∧ r.holder = some .line)
       ∧ s.calls.breakGuardT = true ∧ s.calls.idleT = some 90 ∧ s.calls.state = .incoming ∧ s.calls.snapshot = some .unattended)
    ∧ (inCall .clearing .traffic .attended).calls.clearGuardT = true
    ∧ ((inCall .outgoing .traffic .attended).calls.state = .outgoing
      ∧ (inCall .outgoing .traffic .attended).calls.snapshot ≠ some .unattended) := by
  refine ⟨by decide, by decide, ⟨by decide, ⟨rfl, rfl, rfl, rfl, ?_⟩, by decide⟩, by decide, by decide⟩
  intro n h; exact absurd h (by simp [inCall, State.setCalls, r0, State.reset, Store.afterCold])

theorem witness_AnswerBacksAreAsked :
    (r0.line.abState = .none ∧ ({ r0.ident with latch := some ⟨0, [sL 3]⟩ } : Identity).latch ≠ none)
    ∧ ((⟨0, [sL 3]⟩ : Latch).text = sL 3 :: [] ∧ r0.line.txChar = none ∧ r0.line.txEnable = true ∧ r0.line.pendingRate = none
      ∧ r0.kb.typeahead = [] ∧ .keyboard ∉ r0.line.requests)
    ∧ (r0.ident.latch = none ∧ r0.calls.auto = none) ∧ ({ r0.line with abState := .pending } : LineUnit).abState ≠ .none
    ∧ r0.calls.state = .idle ∧ (inCall .incoming .settle .unattended).calls.phase ≠ some .traffic
    ∧ (let c := (inCall .outgoing .traffic .attended).calls
       c.state = .outgoing ∧ c.phase = some .traffic ∧ c.wruPending = false ∧ c.capturing = false) := by decide

/-- A message READY for delivery, with an outgoing call in its TRAFFIC phase. -/
def sendable : State :=
  (stored { msg 1 .closed none two with delivery := .ready }).setCalls (inCall .outgoing .traffic .attended).calls

theorem witness_CapturesEndAndSendsBegin :
    (let c := { r0.calls with captureStartT := true, capturing := true };
       c.captureStartT = true ∧ c.auto = none ∧ c.captured = [] ∧ c.phase ≠ some .capture)
    ∧ (let s := opened.setStore { opened.store with slotLine := some 1 }
       let c := { r0.calls with captureGapT := true, captured := [sL 3], phase := some .capture }
       c.captureGapT = true ∧ c.phase = some .capture ∧ c.captured ≠ [] ∧ s.store.slotLine = some 1)
    ∧ (r0.calls.captureStartT = false ∧ r0.calls.captureGapT = false)
    ∧ (∀ r ∈ sendable.store.directory, r.number ≠ (2 : Half).toNat)
    ∧ (let r : Record := { msg 1 .closed none two with delivery := .ready }
       sendable.store.find (1 : Half).toNat = some r ∧ sendable.calls.state = .outgoing ∧ sendable.calls.phase = some .traffic
       ∧ r.kind = .prepared ∧ r.state ≠ .opened ∧ r.delivery = .ready
       ∧ ¬ ((sendable.ch0 ≠ none ∧ sendable.ch1 ≠ none) ∨ sendable.calls.wruPending = true ∨ sendable.calls.capturing = true))
    ∧ closed.calls.state ≠ .outgoing
    ∧ ({ sendable.calls with wruPending := true } : Calls).wruPending = true := by decide

/-- An automatic send of message 1 in a step, with a channel or none. -/
def autoIn (step : AutoStep) (ch : Option Chan) : Calls :=
  { (inCall .outgoing .autoSend .attended).calls with auto := some ⟨1, step, ch⟩ }

/-- CONTROL with the grant and a symbol, a character in flight. -/
def controlHas (y : Machine.Symbol) (txCase : Case3) (c : Calls) : State :=
  { stored (msg 1 .closed none two) with
    line := inFlight { r0.line with holder := some .control, control := some y, requests := [.chan .ch1], txCase := txCase }
    dist := { r0.dist with rowSent := ⟨false, false, false, false⟩ }
    calls := c }

/-- The end of an automatic send's capture, with the identity wanted, with another and with none wanted. -/
theorem witness_CapturesEndAndSendsBegin_auto :
    (let c := { autoIn .capture none with captureGapT := true, captured := [sL 3] }
     c.captureGapT = true ∧ c.auto = some ⟨1, .capture, none⟩ ∧ c.phase = some .autoSend ∧ c.state = .outgoing
     ∧ (stored held).store.find 1 = some held ∧ Matches held.expected c.captured = true
     ∧ ¬ (held.expected = [] ∨ ([sL 21] ≠ [] ∧ Matches held.expected [sL 21] = true)))
    ∧ (msg 1 .closed none two).expected = []
    ∧ (r0.line.abState = .none ∧ r0.ident.latch = none ∧ ({ r0.line with abState := .sending } : LineUnit).abState ≠ .none)
    ∧ (r0.setLine (inFlight r0.line)).line.txChar ≠ none := by decide

/-- What follows CONTROL's characters: a shift before WRU, WRU itself, CR and LF of the steps HEADER and TRAILER. -/
theorem witness_CapturesEndAndSendsBegin_control :
    (∀ y ∈ [sF 6, sN 1, sN 2], let s := controlHas y .figures (autoIn .headerCr none)
      s.line.txChar = some ⟨21, 96, false⟩ ∧ s.kb.typeahead = [] ∧ .keyboard ∉ s.line.requests ∧ .control ∉ s.line.requests
      ∧ s.line.holder = some .control ∧ s.line.control = some y ∧ s.line.abState = .none ∧ s.line.txEnable = true
      ∧ s.line.pendingRate = none ∧ s.dist.rowSent = ⟨false, false, false, false⟩ ∧ s.store.slotLine = none
      ∧ (emission s.line.txCase y).1 = false)
    ∧ (emission .letters (sF 6)).1 = true ∧ sN 1 ≠ ⟨6, .figures, false⟩ ∧ sN 2 ≠ ⟨6, .figures, false⟩
    ∧ ((autoIn .headerCr none).auto = some ⟨1, .headerCr, none⟩ ∧ (autoIn .trailerLf none).auto = some ⟨1, .trailerLf, none⟩
      ∧ (autoIn .headerLf none).auto = some ⟨1, .headerLf, none⟩ ∧ (autoIn .trailerCr none).auto = some ⟨1, .trailerCr, none⟩)
    ∧ (let s := controlHas (sN 2) .figures (autoIn .headerLf none)
       s.ch0 = none ∧ s.store.find 1 = some (msg 1 .closed none two) ∧ two = ⟨0, 2, false⟩ :: [] ∧ s.store.wrongOf 0 = []
       ∧ s.calls.state = .outgoing ∧ s.calls.capturing = false ∧ s.ident.latch = none) := by decide

/-- The end of the answer-back text, and the reports of the channel of an automatic send and of a collection. -/
theorem witness_CapturesEndAndSendsBegin_channel :
    (let s := { r0 with
        line := inFlight { r0.line with abState := .sending }, dist := { r0.dist with rowSent := ⟨false, false, false, false⟩ }
        calls := autoIn .headerAnswer none }
     s.line.txChar = some ⟨21, 96, false⟩ ∧ s.line.abState = .sending ∧ s.line.abText = [] ∧ s.line.holder = none
     ∧ s.line.requests = [] ∧ s.kb.typeahead = [] ∧ s.line.txEnable = true ∧ s.store.slotLine = none)
    ∧ (let s := sending { msg 1 .closed none two with delivery := .sending } .sequencer 1 (autoIn .body (some .ch0))
       s.calls.auto = some ⟨1, .body, some .ch0⟩ ∧ s.calls.state = .outgoing ∧ s.line.requests = []
       ∧ s.line.holder = some (.chan .ch0) ∧ [sN 1, sL 3][1]? = some (sL 3) ∧ (emission .letters (sL 3)).1 = false
       ∧ 1 + 1 = 2 ∧ two = [] ++ [⟨0, 2, false⟩] ∧ s.store.slotLine = none
       ∧ s.store.find 1 = some { msg 1 .closed none two with delivery := .sending, readers := 0 })
    ∧ (let c := { (inCall .incoming .collection .unattended).calls with coll := some ⟨[2], some (1, .ch0), 0, 0⟩, captured := [sL 3] }
       c.auto = none ∧ c.coll = some ⟨2 :: [], some (1, .ch0), 0, 0⟩ ∧ c.state = .incoming ∧ 2 ≠ 1
       ∧ ({ held with number := 2 } : Record).CollectedBy c.captured = true
       ∧ ({ r0.store with directory := [msg 1 .closed none two, { held with number := 2 }] } : Store).find 2
         = some { held with number := 2 })
    ∧ (let w : ChanWork := ⟨.running, 1, 1, ⟨true, false, false, false⟩, .now, true, .sequencer, none⟩
       let s := { (stored (msg 1 .closed none two)).setChan .ch0 (some w) with calls := autoIn .body (some .ch0) }
       s.chan .ch0 = some w ∧ w.starter = .sequencer ∧ s.line.holder ≠ some (.chan .ch0) ∧ .chan .ch0 ∉ s.line.requests
       ∧ s.calls.capturing = false ∧ ∀ why ∈ [HoldReason.command, .key, .sink], w.phase ≠ .held why) := by decide

theorem witness_AnsweringIsConfigured :
    ((1 : Byte).getLsbD 0 = true ∧ 1 < (2 : Byte).toNat) ∧ ((128 : Byte).getLsbD 7 = true ∧ 1 < (2 : Byte).toNat)
    ∧ (let presence : Byte := 0xFF
       ¬ ((presence.getLsbD 0 = true ∧ 1 < (1 : Byte).toNat) ∨ (presence.getLsbD 1 = true ∧ 1 < (0 : Byte).toNat)
         ∨ (presence.getLsbD 6 = true ∧ 1 < (1 : Byte).toNat) ∨ (presence.getLsbD 7 = true ∧ 1 < (0 : Byte).toNat))) := by decide


/-! ## One step each, expected values from the manual's worked examples and tables -/

/-- The answer at a port. -/
def answered (p : Port) (s : State) : Option (Byte × Status × Option Reason) :=
  (s.port p).holder.map fun a => (a.code, a.status, a.reason)

/-- R184's worked example: CALL OUT is DONE. -/
theorem test_call_out : answered .x (after (.callOut .x) r0) = some (0x71, .done, none)
    ∧ (after (.callOut .x) r0).calls.state = .outgoing := by decide

/-- R177: AUTO SEND of a READY message in TRAFFIC is STARTED and hands WRU, F class code 6 behind a shift, to the transmitter. -/
theorem test_auto_send : answered .x (after (.autoSend .x 1) sendable) = some (0x73, .started, none)
    ∧ (after (.autoSend .x 1) sendable).line.txChar = some ⟨30, 96, true⟩ := by decide

/-- R183: an empty holder reads REFUSED FORMAT with code 0. -/
theorem test_empty_holder : holderBytes r0.xPort.holder = [0x00, 0x03, 0x01, 0x00] := by decide

/-- R182 and R190: NOP clocked in bit by bit joins the queue; the seventh bit of the empty holder's second byte, 03, is 1; and a
reset in the middle discards the transaction until select falls again. -/
theorem test_port_lines :
    let bits := bitsOfBytes [0x01, 0x00]
    (selectRises .x ⟨0, false⟩ (clockBits .x bits (selectFalls .x r0))).pending = [.nop .x]
    ∧ dataOutBit .x (clockBits .x (bits.take 14) (selectFalls .x r0)) = some true
    ∧ (selectRises .x ⟨0, false⟩ (clockBits .x (bits.drop 8) (after .coldReset (clockBits .x (bits.take 8) (selectFalls .x r0))))).pending
      = [] := by decide

/-- R112: a channel that waits at the end of an OPEN message holds no copy where the last block is full. -/
theorem test_no_copy_at_a_full_end :
    let s := (stored (msg 1 .opened (some (.port .s)) [⟨0, 32, false⟩])).setChan .ch0 (some { work .running 31 with
      copy := some ⟨0, List.replicate 32 (sL 3), true⟩ })
    let t := after (.channelDelivery .ch0) s
    t.ch0.map (·.phase) = some .waiting ∧ t.ch0.map (·.copy) = some none := by decide

/-- R69: a head that waits for the printer is discarded with a bell when the printer enters FAULT. -/
theorem test_jam_discards_what_waits :
    let t := after .carriageJam ((localKeys .justPrinter [sL 3]).setPrinter { r0.printer with
      op := some (.carriageReturn .queue (some 30) none), bell := false })
    t.printer.engine = .fault ∧ t.kb.typeahead = [] ∧ t.printer.bell = true := by decide

/-- R64: RECEIVE holds PRINTER; ADD PUNCH and REMOVE PRINTER leave PUNCH alone in either order. -/
theorem test_route_order :
    (after (.route .x 0 2 2) (after (.route .s 0 1 4) r0)).dist.rowReceive = ⟨false, false, true, false⟩
    ∧ (after (.route .s 0 1 4) (after (.route .x 0 2 2) r0)).dist.rowReceive = ⟨false, false, true, false⟩ := by decide

/-- R63: STORE may not stand in the SENT row, nor TRANSMITTER in RECEIVE. -/
theorem test_route_forbidden : answered .s (after (.route .s 1 1 8) r0) = some (0x18, .refused, some .range)
    ∧ answered .s (after (.route .s 0 1 1) r0) = some (0x18, .refused, some .range) := by decide

/-- "One scan sequence", scan 4: T is confirmed, joins the typeahead, and the transmitter takes an inserted LETTERS while T stays. -/
theorem test_key_scan :
    let t := after (.keyScan 0x10) (r0.setKb { r0.kb with keys := r0.kb.keys.set 4 ⟨false, 3⟩ })
    t.kb.typeahead = [sL 23] ∧ t.line.txChar = some ⟨31, 96, true⟩ ∧ t.line.holder = some .keyboard ∧ t.line.txCase = .letters := by
  decide

/-- "Keyboard text on a new call": after the inserted LETTERS, R leaves the typeahead for the line. -/
theorem test_character_end :
    let t := after .characterEnd (typing.setLine { typing.line with txCase := .letters })
    t.line.txChar = some ⟨21, 96, false⟩ ∧ t.kb.typeahead = [sL 28] := by decide

set_option maxRecDepth 4000 in
/-- "A printer that cannot keep up": the queue is full, A is dropped for the printer with PRINT LOST at both ports. -/
theorem test_print_lost :
    let t := after .stopSample (atStop.setPrinter { r0.printer with queue := List.replicate 128 (sL 3) })
    t.sPort.flags.printLost = true ∧ t.xPort.flags.printLost = true := by decide

/-- The same example: STATUS at the S-port clears its flag alone. -/
theorem test_status_clears_one_port :
    let s := setFlag .printLost r0
    (after (.status .s) s).sPort.flags.printLost = false ∧ (after (.status .s) s).xPort.flags.printLost = true := by decide

/-- "The reserve and a full store", step 8: the last block holds 20, 16 are free; 12 of 32 symbols fit, then FULL. -/
theorem test_append_into_reserve :
    let s := r0.setStore { r0.store with
      free := List.range' 1 16, slotS := some 1, directory := [msg 1 .opened (some (.port .s)) [⟨0, 20, false⟩]] }
    let t := after (.appendText .s 1 (List.replicate 32 0x23)) s
    answered .s t = some (0x31, .refused, some .full) ∧ (t.sPort.holder.map (·.result)) = some [12]
    ∧ t.store.directory.map (fun r => r.chain) = [[⟨0, 32, false⟩]] ∧ t.store.free.length = 16 := by decide

/-- R184: a refused APPEND TEXT carries the count of symbols accepted, FORMAT at the port included; no other command carries any. -/
theorem test_refused_append_carries_its_count :
    (∀ c ∈ [Instr.appendText .s 9 [0x23], .malformedRequest .s [0x31, 3, 0, 9]],
      ((after c r0).sPort.holder.map (·.result)) = some [0])
    ∧ ((after (.malformedRequest .s [0x30, 2, 0, 0]) r0).sPort.holder.map (·.result)) = some []
    ∧ ((after (.close .s 9) r0).sPort.holder.map (·.result)) = some [] := by decide

/-- The same example, steps 1 and 2: numbers 101 and 102. -/
theorem test_create_numbers :
    let s := after (.create .x 0) (after (.create .s 0) (r0.setStore { r0.store with counter := 101 }))
    s.store.directory.map (·.number) = [101, 102] ∧ s.store.slotX = some 102 ∧ s.store.counter = 103 := by decide

/-- "The punch on a new tape": 3 (figures) with punch case UNKNOWN begins as a pair, row 30 first. -/
theorem test_punch_pair :
    let t := after .punchRowCompletion (punching .busy [sF 7, sN 0] [0])
    t.punch.rows = [30, 7] ∧ t.punch.caseNow = .figures ∧ t.punch.queue = [sN 0] := by decide

/-- "The tape runs out and is replaced", at 70 ms: the counter reaches 0 and the engine enters TAPE-OUT. -/
theorem test_tape_runs_out :
    let s := (punching .busy [sN 16] [28]).setPunch { (punching .busy [sN 16] [28]).punch with counter := some 1, tapeLow := true }
    (after .punchRowCompletion s).punch.engine = .tapeOut ∧ (after .punchRowCompletion s).punch.counter = some 0
    ∧ (after .punchRowCompletion s).sPort.queue = [.punchTapeOut] := by decide

/-- The same example, at 6 s: PUNCH RESUME makes the case UNKNOWN, posts PUNCH READY and SPACE is taken. -/
theorem test_punch_resume :
    let s := r0.setPunch { r0.punch with engine := .tapeOut, tapeOut := true, queue := [sN 16], caseNow := .figures }
    (after (.punchResume .s) s).punch.rows = [16] ∧ (after (.punchResume .s) s).punch.caseNow = .unknown
    ∧ (after (.punchResume .s) s).xPort.queue = [.punchReady] := by decide

/-- "Continuous text at 300 baud": an IDLE engine takes the character at once. -/
theorem test_printer_takes :
    let t := after .stopSample (atStop.setPrinter { r0.printer with engine := .idle, op := none })
    t.printer.engine = .busy ∧ t.printer.queue = [] := by decide

/-- "A carriage return and a format change": the pending record that waits becomes the target at home, the column its margin. -/
theorem test_carriage_return_loads_format :
    let f : Format := ⟨60, 10, 1, .hold, false⟩
    let s := r0.setPrinter { r0.printer with op := some (.carriageReturn .queue (some 68) none), column := 68, pending := f, waiting := true }
    let t := after .printCompletion (after .carriageHome s)
    t.printer.active = f ∧ t.printer.column = 10 ∧ t.printer.waiting = false ∧ t.sPort.queue = [.formatLoaded] := by decide

/-- R130: under HOLD the column stays at 68, the last of 69. -/
theorem test_last_column_holds :
    (after .printCompletion (printing (.advance (sL 3)) 68 false .none [])).printer.column = 68
    ∧ (after .printCompletion (printing (.advance (sL 3)) 67 false .none [])).printer.column = 68 := by decide

/-- R105: the seconds clock wraps from 4294967295 to 0. -/
theorem test_clock_wraps : (after .secondsTick (after (.setClock .s 0xFFFFFFFF) r0)).store.clock = 0 := by decide

/-- R114 and R115: the last symbol of a CLOSED message goes to the printer, CHANNEL DONE is posted and the channel is IDLE. -/
theorem test_channel_done :
    let t := after (.channelDelivery .ch0) (closed.setChan .ch0 (some (work .running 1)))
    t.ch0 = none ∧ t.sPort.queue = [.channelDone .ch0 1] ∧ t.printer.queue = [sL 3] := by decide

/-- R180: the drain starts CH1 on the owed message and delivers what the printer takes. -/
theorem test_drain_start : (after .drainStart owed).calls.drain = some 1 ∧ (after .drainStart owed).ch1.isSome = true := by decide

/-- R156: programming A over an unwritten position leaves the byte of A, and a later D lands on their common ones. -/
theorem test_program_ands_bits :
    let t := after .programCompletion (identity .unwritten (some (.program 0 0 [0x23])))
    t.ident.slots.map (fun k => k.positions.headD 0) = 0x23 :: List.replicate 7 0xFF ∧ t.sPort.queue.length = 1
    ∧ (after .programCompletion (identity slotA (some (.program 0 0 [0x29])))).ident.slots.map (fun k => k.positions.headD 0)
      = 0x21 :: List.replicate 7 0xFF := by decide

/-- R26: a space period in SPACING-HOLD that reaches the break time is declared a break. -/
theorem test_break_detected : (after .lineBreak (spacing false)).sPort.queue = [.breakDetected]
    ∧ (after .lineBreak (spacing false)).line.breakDeclared = true := by decide

/-- R75 and R76: the trigger CLEAR REQUEST on one received symbol asks an unattended call to clear. -/
theorem test_trigger_clears :
    let s := ((assembling 9 [true, false, true, false, true]).setCalls (inCall .incoming .traffic .unattended).calls).setDist { r0.dist with
      triggers := [some ⟨true, [.symbol (sL 21)], .clearRequest⟩, none, none, none] }
    (after .stopSample s).calls.state = .clearing ∧ (after .stopSample s).sPort.queue
      = [.clearRequested .trigger, .trigger 0] := by decide

/-- R42: a second request for the answer-back is absorbed. -/
theorem test_answer_back_absorbed :
    (after (.sendAnswerBack .s) (r0.setLine { r0.line with abState := .sending, abText := [sL 3], txChar := some ⟨3, 96, false⟩ })).line.absorbed
      = 1 := by decide

/-- R187: READ EVENTS of four from six leaves two. -/
theorem test_read_events : ((after (.readEvents .x 4) (queued 6)).xPort.queue.length = 2)
    ∧ ((after (.readEvents .x 4) (queued 6)).xPort.holder.map fun a => a.result.length) = some 29
    ∧ (after (.readEvents .x 4) (queued 6)).sPort.queue.length = 6 := by decide

/-- R185: RESTART at the X-port posts RESTARTED first and empties the holders. -/
theorem test_restart : (after (.restart .x) (queued 16)).sPort.queue.head? = some (.restarted (.port .x))
    ∧ (after (.restart .x) (queued 16)).sPort.holder = none := by decide

/-- A block idles on an empty queue, and a step runs the command in front (log entry 1). -/
theorem test_step : (match step (waiting (.callIn .s) r0) with | .next t => decide (t.calls.state = .incoming ∧ t.pending = []) | _ => false)
    = true := by decide

end Sys2Proof.Tests
end

section
/-! SUPPORT. The quality record of the Line Unit (R31): what moves traffic keeps it, a stop sample updates it, a call start clears all
but last p, and a reset clears it whole. -/

namespace Sys2Proof.Machine

/-- The fields of R31's quality record. -/
structure QualityRecord where
  lastP : Nat
  peakP : Nat
  received : Nat
  overCount : Nat
  framingCount : Nat
  distReported : Bool

/-- The quality record of a Line Unit. -/
def LineUnit.quality (l : LineUnit) : QualityRecord where
  lastP := l.lastP
  peakP := l.peakP
  received := l.received
  overCount := l.overCount
  framingCount := l.framingCount
  distReported := l.distReported

/-! ## What keeps the record -/

/-- The record belongs to what moving traffic leaves alone. -/
theorem Moves.quality {s t : State} (h : Moves s t) : t.line.quality = s.line.quality :=
  calc t.line.quality
    _ = t.still.line.quality := rfl
    _ = s.still.line.quality := by rw [h.still]
    _ = s.line.quality := rfl

@[simp] theorem kick_quality (s : State) : (kick s).line.quality = s.line.quality := (Moves.ofKick s).quality

theorem stopReports_line (l : LineUnit) (mark : Bool) (s : State) : (stopReports l mark s).line = s.line := by
  simp only [stopReports]
  split_ifs <;> rfl

theorem captureSee_quality (y : Symbol) (s : State) : (captureSee y s).line.quality = s.line.quality := by
  simp only [captureSee]
  split_ifs
  · exact (Moves.ofCaptureEnd _).quality
  · rfl
  · rfl

theorem triggerAct_quality (a : TriggerAction) (s : State) : (triggerAct a s).line.quality = s.line.quality := by
  cases a with
  | endMessage => exact (Moves.ofCloseLine (by decide) s).quality
  | clearRequest => exact (Moves.ofClearRequest .trigger s).quality
  | openGate => rfl
  | shutGate => rfl
  | sendHeld => exact (Moves.ofCollectionStart s).quality
  | report => rfl

theorem triggerActs_quality (found : List (Nat × TriggerAction)) (s : State) :
    (triggerActs found s).line.quality = s.line.quality := by
  induction found generalizing s with
  | nil => rfl
  | cons e rest ih =>
    calc (triggerActs rest (post (.trigger e.1) (triggerAct e.2 s))).line.quality
      _ = (triggerAct e.2 s).line.quality := ih _
      _ = s.line.quality := triggerAct_quality e.2 s

theorem recognise_quality (y : Symbol) (s : State) : (recognise y s).line.quality = s.line.quality := by
  unfold recognise
  split
  · rfl
  · dsimp only
    split
    · rfl
    · exact triggerActs_quality _ _

/-- In whichever order the recogniser and the capture see the symbol (log entry 15), the record stands. -/
theorem handOff_quality (y : Symbol) (s : State) : (handOff y s).line.quality = s.line.quality := by
  unfold handOff
  split_ifs
  · exact (recognise_quality y _).trans (captureSee_quality y _)
  · exact (captureSee_quality y _).trans (recognise_quality y _)
  · exact recognise_quality y s

theorem receivedWru_quality (y : Symbol) (s : State) : (receivedWru y s).line.quality = s.line.quality := by
  unfold receivedWru
  split_ifs
  · exact (Moves.ofAnswerBack s).quality
  · rfl

theorem declareBreak_quality (s : State) : (declareBreak s).line.quality = s.line.quality := by
  have hold := (Moves.ofHoldBoth .lineBreak (post .breakDetected (s.setLine { s.line with breakDeclared := true }))).quality
  simp only [declareBreak]
  split_ifs <;> exact hold

theorem endDrain_quality (s : State) : (endDrain s).line.quality = s.line.quality := by
  unfold endDrain
  split
  · rfl
  · exact (Moves.ofTold (Moves.ofStop .ch1 s)).quality

theorem settleDone_quality (s : State) : (settleDone s).line.quality = s.line.quality := (Moves.ofWruAsk _).quality

theorem loadLatch_line (s : State) : (loadLatch s).line = s.line := postAll_line _ _

theorem resetEnd_line (s : State) : (resetEnd s).line = s.line := (postAll_line _ _).trans (loadLatch_line s)

/-! ## The stop sample -/

/-- The record after a stop sample with the line at mark or space. -/
def LineUnit.sampled (l : LineUnit) (mark : Bool) : QualityRecord where
  lastP := percent l.maxDisp
  peakP := max l.peakP (percent l.maxDisp)
  received := bump l.received
  overCount := if l.threshold < percent l.maxDisp then bump l.overCount else l.overCount
  framingCount := if mark then l.framingCount else bump l.framingCount
  distReported := l.distReported || decide (l.threshold < percent l.maxDisp)

theorem LineUnit.stopped_quality (l : LineUnit) (mark : Bool) (rx : Case2) : (l.stopped mark rx).quality = l.sampled mark := by
  cases mark <;> rfl

/-- What follows the update of the Line Unit, from the delivery of the symbol to the break and the look for a character, keeps the
record. -/
theorem exec_stopSample_quality {s : State} (hrx : s.line.rx = .assembling) (hunits : s.line.units.length = 5) :
    ∃ t, exec .stopSample s = .next t ∧ t.line.quality = s.line.sampled s.pins.lineMark := by
  have run : exec .stopSample s = execStopSample s := rfl
  rw [run, execStopSample, if_pos ⟨hrx, hunits⟩]
  extract_lets c p s1 s2 s3 s4
  refine ⟨_, rfl, ?_⟩
  have h1 : s1.line.quality = s.line.sampled s.pins.lineMark := by
    rw [stopReports_line]
    exact s.line.stopped_quality s.pins.lineMark c.2
  have h2 : s2.line.quality = s1.line.quality := (Moves.ofReceiveDeliver _ _ _ s1).quality
  have h3 : s3.line.quality = s2.line.quality := (receivedWru_quality _ _).trans (handOff_quality _ _)
  have h4 : s4.line.quality = s3.line.quality := by
    dsimp only [s4]
    split_ifs
    · exact declareBreak_quality s3
    · rfl
  rw [kick_quality, h4, h3, h2, h1]

/-- A displacement of at most half a unit is at most 50 percent (R30). -/
theorem percent_le {d : Nat} (h : d ≤ 32) : percent d ≤ 50 := by
  unfold percent
  omega

/-! ## Call starts and resets -/

/-- The record after a call start: cleared but for last p. -/
def QualityRecord.atCall (q : QualityRecord) : QualityRecord := ⟨q.lastP, 0, 0, 0, 0, false⟩

theorem callStart_quality (s : State) : (callStart s).line.quality = s.line.quality.atCall := by
  rw [← endDrain_quality s]
  rfl

theorem callInStart_quality (s : State) : (callInStart s).line.quality = (callStart s).line.quality := by
  simp only [callInStart]
  split
  · rfl
  · split_ifs
    · exact settleDone_quality _
    · rfl
    · rfl

theorem callOutStart_quality (s : State) : (callOutStart s).line.quality = (callStart s).line.quality := by
  have trigger (c : Chan) (u : State) : (told c (triggerChan c .callOut u)).line.quality = u.line.quality :=
    (Moves.ofTold (Moves.ofTrigger c .callOut u)).quality
  simp only [callOutStart, post_line, trigger, State.setCalls_line]

theorem exec_callIn_quality (p : Port) {s : State} (h : s.calls.state = .idle) :
    ∃ t, exec (.callIn p) s = .next t ∧ t.line.quality = s.line.quality.atCall := by
  have run : exec (.callIn p) s = execCallIn p s := rfl
  rw [run, execCallIn, if_pos h]
  refine ⟨_, rfl, ?_⟩
  rw [kick_quality, State.done, State.answer_line, callInStart_quality, callStart_quality]

theorem exec_callOut_quality (p : Port) {s : State} (h : s.calls.state = .idle) :
    ∃ t, exec (.callOut p) s = .next t ∧ t.line.quality = s.line.quality.atCall := by
  have run : exec (.callOut p) s = execCallOut p s := rfl
  rw [run, execCallOut, if_pos h]
  refine ⟨_, rfl, ?_⟩
  rw [kick_quality, State.done, State.answer_line, callOutStart_quality, callStart_quality]

/-- Every reset gives the Line Unit its reset state (R45). -/
theorem exec_reset_line {c : Instr} (h : isReset c = true) (s : State) :
    ∃ t, exec c s = .next t ∧ t.line = .afterReset s.pins.lineMark := by
  cases c with
  | coldReset => exact ⟨_, rfl, resetEnd_line _⟩
  | warmReset => exact ⟨_, rfl, resetEnd_line _⟩
  | restart p => exact ⟨_, rfl, resetEnd_line _⟩
  | _ => cases h

/-! ## The record is kept -/

/-- Settles O24: each of the three events is read off its quality record. -/
theorem qualityRecordIsKept : Obligations.QualityRecordIsKept := by
  refine ⟨fun s hrx hunits => ?_, fun c s hc hidle => ?_, fun c s hc => ?_⟩
  · obtain ⟨t, run, hq⟩ := exec_stopSample_quality hrx hunits
    exact ⟨percent s.line.maxDisp, t, rfl, run, congrArg (·.lastP) hq, congrArg (·.peakP) hq, congrArg (·.received) hq,
      congrArg (·.overCount) hq, congrArg (·.framingCount) hq, percent_le⟩
  · obtain ⟨t, run, hq⟩ : ∃ t, exec c s = .next t ∧ t.line.quality = s.line.quality.atCall := by
      obtain ⟨p, rfl | rfl⟩ := hc
      · exact exec_callIn_quality p hidle
      · exact exec_callOut_quality p hidle
    exact ⟨t, run, congrArg (·.peakP) hq, congrArg (·.received) hq, congrArg (·.overCount) hq, congrArg (·.framingCount) hq,
      congrArg (·.distReported) hq, congrArg (·.lastP) hq⟩
  · obtain ⟨t, run, hline⟩ := exec_reset_line hc s
    refine ⟨t, run, ?_⟩
    rw [hline]
    exact ⟨rfl, rfl, rfl, rfl, rfl, rfl⟩

end Sys2Proof.Machine
end

section
/-! SUPPORT. One keyboard scan (R46 to R49): how the scan moves the state of each key, and that what the keys confirmed in it then do
leaves every key as the scan has left it. -/

namespace Sys2Proof.Machine

/-! ## One key -/

/-- Seen in its confirmed state, a key starts its run afresh. -/
theorem Key.scan_agreeing {k : Key} {seen : Bool} (h : seen = k.down) (d : Nat) : k.scan d seen = ⟨k.down, 0⟩ := if_pos h

/-- Seen opposite for fewer than D scans, a key counts one more. -/
theorem Key.scan_counting {d : Nat} {k : Key} {seen : Bool} (h : seen ≠ k.down) (below : k.run + 1 < d) :
    k.scan d seen = ⟨k.down, k.run + 1⟩ := by
  unfold Key.scan
  rw [if_neg h, if_neg (Nat.not_le_of_lt below)]

/-- Seen opposite for D scans, a key changes its confirmed state. -/
theorem Key.scan_changing {d : Nat} {k : Key} {seen : Bool} (h : seen ≠ k.down) (reached : d ≤ k.run + 1) :
    k.scan d seen = ⟨!k.down, 0⟩ := by
  unfold Key.scan
  rw [if_neg h, if_pos reached, Bool.eq_not_of_ne h]

/-- A key seen opposite in n scans on end, fewer than D, has n in its run count and has not changed. -/
theorem Key.scans_counting (d : Nat) (up : Bool) : ∀ n < d, (fun k : Key => k.scan d (!up))^[n] ⟨up, 0⟩ = ⟨up, n⟩
  | 0, _ => rfl
  | n + 1, h => by
    rw [Function.iterate_succ_apply', Key.scans_counting d up n (Nat.lt_of_succ_lt h)]
    exact Key.scan_counting (Bool.not_ne_self up) h

/-- The D-th scan on end that sees a key opposite changes it. -/
theorem Key.scans_changing {d : Nat} (up : Bool) (h : 0 < d) : (fun k : Key => k.scan d (!up))^[d] ⟨up, 0⟩ = ⟨!up, 0⟩ := by
  obtain ⟨n, rfl⟩ := Nat.exists_eq_add_one.mpr h
  rw [Function.iterate_succ_apply', Key.scans_counting (n + 1) up n n.lt_succ_self]
  exact Key.scan_changing (Bool.not_ne_self up) le_rfl

/-! ## Every key -/

@[simp] theorem length_scanKeys (d : Nat) (keys : List Key) (seen : BitVec 64) : (scanKeys d keys seen).length = keys.length :=
  List.length_mapIdx

theorem getElem?_scanKeys {d n : Nat} {keys : List Key} {k : Key} (seen : BitVec 64) (h : keys[n]? = some k) :
    (scanKeys d keys seen)[n]? = some (k.scan d (seen.getLsbD n)) := by
  simp only [scanKeys, List.getElem?_mapIdx, h, Option.map_some]

/-! ## What the confirmed keys do -/

/-- The keys belong to what moving traffic leaves alone. -/
theorem Moves.keys {s t : State} (h : Moves s t) : t.kb.keys = s.kb.keys :=
  calc t.kb.keys
    _ = t.still.kb.keys := rfl
    _ = s.still.kb.keys := by rw [h.still]
    _ = s.kb.keys := rfl

theorem Moves.ofTypeSymbol (y : Symbol) (s : State) : Moves s (typeSymbol y s) := by
  unfold typeSymbol
  refine .ite (.refl s) ?_
  by_cases room : s.kb.typeahead.length < 32
  · rw [if_pos room]
    have joined : Moves s ((s.setKb { s.kb with typeahead := s.kb.typeahead ++ [y] }).setLine { s.line with releaseRun := none }) :=
      (Moves.ofTypeahead s _ fun _ => by rw [List.length_append]; exact room).trans (Moves.ofSend _)
    exact .ite (joined.trans (Moves.ofOfferHead _)) joined
  · rw [if_neg room]
    exact Moves.ofBell s

/-- The mode is the keyboard's, but no key's. -/
theorem changeMode_keys (m : KbMode) (s : State) : (changeMode m s).kb.keys = s.kb.keys := by
  unfold changeMode
  split_ifs
  · rfl
  · cases m with
    | line => exact (Moves.ofOfferHead _).keys
    | loc => exact ((Moves.ofLeave _ .keyboard).trans (Moves.ofOfferHead _)).keys

theorem keyFunction_keys (f : Function) (s : State) : (keyFunction f s).kb.keys = s.kb.keys := by
  cases f with
  | hereIs => exact (Moves.ite (.refl s) (Moves.ofAnswerBack s)).keys
  | wru => exact (Moves.ite (Moves.ofWruAsk s) (.refl s)).keys
  | breakIn => exact ((Moves.ofHoldBoth .key s).trans (Moves.ofPost _ .keyBreak)).keys
  | lineLocal => exact changeMode_keys _ s
  | send =>
    have sent (c : Chan) (u : State) : Moves u (told c (triggerChan c .sendKey u)) := Moves.ofTold (Moves.ofTrigger c .sendKey u)
    exact (Moves.ite (.refl s) ((sent .ch0 s).trans (sent .ch1 _))).keys
  | report n => exact (Moves.ofPost s (.key n)).keys

theorem keyAct_keys (a : Assignment) (s : State) : (keyAct a s).kb.keys = s.kb.keys := by
  cases a with
  | none => rfl
  | shift => rfl
  | symbol y => exact ((Moves.ofTypeSymbol y s).trans (Moves.ofKick _)).keys
  | function f => exact (Moves.ofKick _).keys.trans (keyFunction_keys f s)

theorem takeKeys_keys (ns : List Nat) (s : State) : (takeKeys ns s).kb.keys = s.kb.keys := by
  induction ns generalizing s with
  | nil => rfl
  | cons n rest ih => exact (ih _).trans (keyAct_keys _ s)

/-- KEY_SCAN leaves the keys as their debounce gives them, whatever the confirmed ones do. -/
theorem exec_keyScan_keys (seen : BitVec 64) (s : State) :
    ∃ t, exec (.keyScan seen) s = .next t ∧ t.kb.keys = scanKeys s.kb.confirmCount s.kb.keys seen :=
  ⟨_, rfl, takeKeys_keys _ _⟩

/-- Settles O34: the scan is read off key by key, the D scans on end by iteration, and the clamp is that of the command. -/
theorem keysAreDebounced : Obligations.KeysAreDebounced := by
  refine ⟨fun seen s hlen => ?_, fun d n up hd => ⟨Key.scans_counting d up n, Key.scans_changing up (by omega)⟩,
    fun p d s => ⟨_, rfl, rfl⟩⟩
  obtain ⟨t, run, hkeys⟩ := exec_keyScan_keys seen s
  refine ⟨t, run, by rw [hkeys, length_scanKeys, hlen], fun n k hk => ?_⟩
  rw [hkeys, getElem?_scanKeys seen hk]
  exact ⟨fun h => congrArg some (Key.scan_agreeing h _), fun h below => congrArg some (Key.scan_counting h below),
    fun h reached => congrArg some (Key.scan_changing h reached)⟩

end Sys2Proof.Machine
end

section
-- One proof is elaborated at a time: the threads of many at once do not fit the memory a check allows.
set_option Elab.async false

/-! SUPPORT. The identity cells only fall (R153): every write to a cell, a slot or the store takes bits from 1 to 0. -/

namespace Sys2Proof.Machine

/-! ## Cells -/

theorem bitsFall_refl {w : Nat} (v : BitVec w) : bitsFall v v := BitVec.and_self

theorem bitsFall_trans {w : Nat} {a b c : BitVec w} (hab : bitsFall a b) (hbc : bitsFall b c) : bitsFall a c := by
  calc c &&& a
    _ = c &&& b &&& a := by rw [hbc]
    _ = c &&& (b &&& a) := BitVec.and_assoc ..
    _ = c := by rw [hab, hbc]

theorem bitsFall_otpWrite {w : Nat} (old new dead : BitVec w) : bitsFall old (otpWrite old new dead) := by
  rw [bitsFall, otpWrite, BitVec.and_comm, ← BitVec.and_assoc, BitVec.and_self]

/-! ## Slots -/

theorem IdSlot.falls_refl (k : IdSlot) : k.Falls k :=
  ⟨rfl, fun _ => bitsFall_refl _, bitsFall_refl _, bitsFall_refl _, fun _ => id, id⟩

theorem IdSlot.falls_trans {k l m : IdSlot} (a : k.Falls l) (b : l.Falls m) : k.Falls m := by
  obtain ⟨size, cells, length, check, count, marker⟩ := a
  obtain ⟨size', cells', length', check', count', marker'⟩ := b
  exact ⟨size'.trans size, fun p => bitsFall_trans (cells p) (cells' p), bitsFall_trans length length',
    bitsFall_trans check check', fun n => count' n ∘ count n, marker' ∘ marker⟩

theorem IdSlot.writePosition_falls (k : IdSlot) (p : Nat) (b hold : Byte) : k.Falls (k.writePosition p b hold) := by
  refine ⟨List.length_modify _ _ _, fun q => ?_, bitsFall_refl _, bitsFall_refl _, fun _ => id, id⟩
  simp only [IdSlot.writePosition, List.getD_eq_getElem?_getD, List.getElem?_modify]
  cases k.positions[q]? with
  | none => exact bitsFall_refl _
  | some old =>
    by_cases h : p = q
    · simpa [h] using bitsFall_otpWrite _ _ _
    · simpa [h] using bitsFall_refl _

theorem IdSlot.writeRun_falls (bs : List Byte) (k : IdSlot) (p : Nat) : k.Falls (k.writeRun p bs) := by
  induction bs generalizing k p with
  | nil => exact k.falls_refl
  | cons b bs ih => exact IdSlot.falls_trans (k.writePosition_falls p b 0) (ih _ _)

theorem IdSlot.writeCut_falls (k : IdSlot) (first : Nat) (text : List Byte) (whole : Nat) (hold : Byte) :
    k.Falls (k.writeCut first text whole hold) := by
  unfold IdSlot.writeCut
  dsimp only
  split
  · exact IdSlot.falls_trans (IdSlot.writeRun_falls _ _ _) (IdSlot.writePosition_falls _ _ _ _)
  · exact IdSlot.writeRun_falls _ _ _

theorem IdSlot.spendCount_falls (k : IdSlot) : k.Falls k.spendCount.1 := by
  unfold IdSlot.spendCount
  split
  · exact k.falls_refl
  · split_ifs
    · exact k.falls_refl
    · refine ⟨rfl, fun _ => bitsFall_refl _, bitsFall_refl _, bitsFall_refl _, fun m hm => ?_, id⟩
      simp only [List.getD_eq_getElem?_getD, List.getElem?_set] at hm ⊢
      split_ifs <;> simp_all

theorem IdSlot.commitCell_falls (k : IdSlot) (length : Byte) (code : Half) (written : Nat) :
    k.Falls (k.commitCell length code written).1 := by
  have length' := bitsFall_otpWrite k.length length (deadMask 8 160 k.deadBits)
  have check' := bitsFall_otpWrite k.check code (deadMask 16 168 k.deadBits)
  match written with
  | 0 => exact ⟨rfl, fun _ => bitsFall_refl _, length', bitsFall_refl _, fun _ => id, id⟩
  | 1 =>
    simp only [IdSlot.commitCell]
    split_ifs
    · exact ⟨rfl, fun _ => bitsFall_refl _, bitsFall_refl _, check', fun _ => id, id⟩
    · exact ⟨rfl, fun _ => bitsFall_refl _, bitsFall_refl _, check', fun _ => id, id⟩
  | _ + 2 =>
    simp only [IdSlot.commitCell]
    split_ifs
    · exact k.falls_refl
    · exact ⟨rfl, fun _ => bitsFall_refl _, bitsFall_refl _, bitsFall_refl _, fun _ => id, fun _ => rfl⟩

/-! ## The store -/

theorem Identity.falls_refl (i : Identity) : i.Falls i := ⟨rfl, fun n => (i.slot n).falls_refl, id⟩

theorem Identity.falls_trans {i j k : Identity} (a : i.Falls j) (b : j.Falls k) : i.Falls k :=
  ⟨b.1.trans a.1, fun n => IdSlot.falls_trans (a.2.1 n) (b.2.1 n), b.2.2 ∘ a.2.2⟩

/-- What is not a cell may change at will. -/
theorem Identity.falls_of_cells {i j : Identity} (hs : j.slots = i.slots) (hp : i.protect = true → j.protect = true) :
    i.Falls j := by
  refine ⟨by rw [hs], fun n => ?_, hp⟩
  rw [Identity.slot, Identity.slot, hs]
  exact IdSlot.falls_refl _

theorem Identity.setSlot_falls (i : Identity) (n : Nat) {k : IdSlot} (h : (i.slot n).Falls k) : i.Falls (i.setSlot n k) := by
  refine ⟨List.length_set, fun m => ?_, id⟩
  simp only [Identity.slot, Identity.setSlot, List.getD_eq_getElem?_getD, List.getElem?_set] at h ⊢
  split_ifs with e inside
  · subst e
    simpa using h
  · subst e
    rw [List.getElem?_eq_none (Nat.le_of_not_lt inside)]
    exact IdSlot.falls_refl _
  · exact IdSlot.falls_refl _

theorem Identity.midProgram_falls (i : Identity) (draw : Nat) : i.Falls (i.midProgram draw) := by
  unfold Identity.midProgram
  split
  · exact Identity.setSlot_falls i _ (IdSlot.writeCut_falls _ _ _ _ _)
  · exact i.falls_refl

theorem Identity.cut_falls (i : Identity) (draw : Nat) : i.Falls (i.cut draw) :=
  Identity.falls_trans (i.midProgram_falls draw) (Identity.falls_of_cells rfl id)

end Sys2Proof.Machine
end

section
-- One proof is elaborated at a time: the threads of many at once do not fit the memory a check allows.
set_option Elab.async false

/-! SUPPORT. What each command and event but a reset keeps. Runs s t: Keeps, and the identity cells only fall and the queue of
commands stands. Acts p s t: the same, but for the answer at the port where a command was taken. One lemma per shared operation
that is not already a Moves. -/

namespace Sys2Proof.Machine

/-- What an operation that answers no port keeps. -/
structure Runs (s t : State) : Prop extends Keeps s t where
  falls : s.ident.Falls t.ident
  pending : t.pending = s.pending

theorem Moves.ident {s t : State} (h : Moves s t) : t.ident = s.ident :=
  calc t.ident
    _ = t.still.ident := rfl
    _ = s.still.ident := by rw [h.still]
    _ = s.ident := rfl

theorem Moves.pending {s t : State} (h : Moves s t) : t.pending = s.pending :=
  calc t.pending
    _ = t.still.pending := rfl
    _ = s.still.pending := by rw [h.still]
    _ = s.pending := rfl

theorem Keeps.runs {s t : State} (h : Keeps s t) (hi : t.ident = s.ident := by rfl) (hp : t.pending = s.pending := by rfl) :
    Runs s t := ⟨h, hi ▸ s.ident.falls_refl, hp⟩

theorem Moves.runs {s t : State} (h : Moves s t) : Runs s t := h.toKeeps.runs h.ident h.pending

theorem Runs.refl (s : State) : Runs s s := (Moves.refl s).runs

theorem Runs.trans {s t u : State} (a : Runs s t) (b : Runs t u) : Runs s u :=
  ⟨a.toKeeps.trans b.toKeeps, Identity.falls_trans a.falls b.falls, b.pending.trans a.pending⟩

theorem Runs.ite {s a b : State} {p : Prop} [Decidable p] (x : Runs s a) (y : Runs s b) : Runs s (if p then a else b) := by
  split
  · exact x
  · exact y

theorem Runs.ofIdent (s : State) {i : Identity} (h : s.ident.Falls i := by exact Identity.falls_of_cells rfl id) :
    Runs s (s.setIdent i) := ⟨Keeps.ofIdent s fun n => h.1.trans n, h, rfl⟩

theorem Runs.ofCalls (s : State) (c : Calls) : Runs s (s.setCalls c) := (Keeps.ofCalls s c).runs

/-- A change that keeps the sizes of the trigger table and the history. -/
theorem Runs.ofDist (s : State) {d : Distributor} (ht : s.dist.triggers.length = 4 → d.triggers.length = 4 := by exact id)
    (hh : s.dist.history.length ≤ 8 → d.history.length ≤ 8 := by exact id) : Runs s (s.setDist d) := (Keeps.ofDist s ht hh).runs

/-- A change that keeps the sizes of the keyboard's lists. -/
theorem Runs.ofKb (s : State) {k : Keyboard} (ht : k.typeahead = s.kb.typeahead := by rfl)
    (hk : k.keys.length = s.kb.keys.length := by rfl) (h0 : s.kb.plane0.length = 64 → k.plane0.length = 64 := by exact id)
    (h1 : s.kb.plane1.length = 64 → k.plane1.length = 64 := by exact id) : Runs s (s.setKb k) :=
  (Keeps.ofKb s fun ⟨a, b, c, d⟩ => ⟨ht ▸ a, hk.trans b, h0 c, h1 d⟩).runs

/-- A change that leaves the arbiter's list and holder and the quality record as they are. -/
theorem Runs.ofLine (s : State) {l : LineUnit} (hr : l.requests = s.line.requests := by rfl) (hh : l.holder = s.line.holder := by rfl)
    (hq : s.line.qualitySound → l.qualitySound := by exact id) : Runs s (s.setLine l) :=
  (Keeps.ofLine s (fun h => by rwa [LineUnit.arbiterSound, hr, hh]) hq).runs

/-- A change that leaves blocks, directory, slots and counter as they are. -/
theorem Runs.ofStore (s : State) {t : Store} (h : s.store.Sound → t.Sound)
    (hd : t.directory = s.store.directory := by rfl) (h1 : t.slotLine = s.store.slotLine := by rfl)
    (h2 : t.slotKeyboard = s.store.slotKeyboard := by rfl) (h3 : t.slotS = s.store.slotS := by rfl)
    (h4 : t.slotX = s.store.slotX := by rfl) : Runs s (s.setStore t) :=
  (Keeps.ofStore s h fun _ a => a.of_same hd h1 h2 h3 h4).runs

/-! ## The Call Sequencer -/

theorem Runs.ofCallEnd (cause : CallCause) (s : State) : Runs s (callEnd cause s) := by
  have captured : Moves s (if s.calls.capturing then captureStop s else s) := .ite (Moves.ofCaptureStop s) (.refl s)
  refine (Keeps.ofCallEnd cause s).runs ?_ ?_
  · simp only [callEnd, (Moves.ofDrainTest _).ident, post_ident, State.setCalls_ident, State.setKb_ident, State.setDist_ident,
      (Moves.ofAutoCut _).ident, (Moves.ofHoldBoth _ _).ident, (Moves.ofCloseLine (show MsgState.incomplete ≠ .opened by decide) _).ident,
      leave_ident, State.setLine_ident, captured.ident]
  · simp only [callEnd, (Moves.ofDrainTest _).pending, post_pending, State.setCalls_pending, State.setKb_pending,
      State.setDist_pending, (Moves.ofAutoCut _).pending, (Moves.ofHoldBoth _ _).pending,
      (Moves.ofCloseLine (show MsgState.incomplete ≠ .opened by decide) _).pending, leave_pending, State.setLine_pending,
      captured.pending]

theorem Runs.ofEndDrain (s : State) : Runs s (endDrain s) := by
  unfold endDrain
  split
  · exact .refl s
  · exact (Moves.ofTold (Moves.ofStop .ch1 s)).runs.trans (Runs.ofCalls _ _)

theorem Runs.ofCallStart (s : State) : Runs s (callStart s) := by
  refine (Runs.ofEndDrain s).trans ?_
  refine Runs.trans (Runs.ofLine _ (hq := ?line)) ((Runs.ofDist _ (hh := ?dist)).trans
    ((Runs.ofStore _ (h := ?store)).trans (Runs.ofCalls _ _)))
  case line => exact fun ⟨disp, last, _⟩ => ⟨disp, last, Nat.zero_le _, Nat.zero_le _, Nat.zero_le _, Nat.zero_le _⟩
  case dist => exact fun _ => Nat.zero_le _
  case store => exact fun w => { w with }

theorem Runs.ofSettleDone (s : State) : Runs s (settleDone s) := (Runs.ofCalls s _).trans (Moves.ofWruAsk _).runs

theorem Runs.ofCallInStart (s : State) : Runs s (callInStart s) := by
  have begun := Runs.ofCallStart s
  have posted (u : State) (c : Calls) : Runs u (post (.call .incoming .callIn) (u.setCalls c)) :=
    (Runs.ofCalls u c).trans (Moves.ofPost _ _).runs
  have locked (u : State) : Runs u (u.setKb { u.kb with callLock := true } |>.setDist { u.dist with storeAdd := true }) :=
    (Runs.ofKb u).trans (Runs.ofDist _)
  unfold callInStart
  dsimp only
  split
  · exact begun.trans (posted _ _)
  · split_ifs
    · exact begun.trans ((locked _).trans ((posted _ _).trans (Runs.ofSettleDone _)))
    · exact begun.trans ((locked _).trans (posted _ _))
    · exact begun.trans ((locked _).trans (posted _ _))

theorem Runs.ofCallOutStart (s : State) : Runs s (callOutStart s) := by
  have triggered (c : Chan) (u : State) : Runs u (told c (triggerChan c .callOut u)) :=
    (Moves.ofTold (Moves.ofTrigger c .callOut u)).runs
  exact (Runs.ofCallStart s).trans ((Runs.ofCalls _ _).trans ((triggered .ch0 _).trans ((triggered .ch1 _).trans
    (Moves.ofPost _ _).runs)))

theorem Runs.ofSelfClear (cause : SelfCause) (s : State) : Runs s (selfClear cause s) :=
  (Runs.ofCallEnd .self s).trans ((Moves.ofPost _ _).trans (Moves.ofKick _)).runs

/-! ## The line -/

theorem LineUnit.hunt_quality {l : LineUnit} (h : l.qualitySound) : l.hunt.qualitySound := ⟨Nat.zero_le _, h.2⟩

/-- A change after which the grant may pass. -/
theorem Runs.ofPass (s : State) {l : LineUnit} (hr : l.requests = s.line.requests := by rfl) (hh : l.holder = s.line.holder := by rfl)
    (hq : s.line.qualitySound → l.qualitySound := by exact id) : Runs s (s.setLine l.pass) := by
  refine (Keeps.ofLine s (fun h => LineUnit.pass_sound (by rwa [LineUnit.arbiterSound, hr, hh])) fun h => ?_).runs
  have : l.pass.still.qualitySound := by rw [l.pass_still]; exact hq h
  exact this

theorem Runs.ofDeclareBreak (s : State) : Runs s (declareBreak s) := by
  unfold declareBreak
  refine Runs.trans (t := holdBoth .lineBreak (post .breakDetected (s.setLine { s.line with breakDeclared := true }))) ?_ ?_
  · exact (Runs.ofLine s).trans ((Moves.ofPost _ _).trans (Moves.ofHoldBoth _ _)).runs
  · dsimp only
    split_ifs
    · exact Runs.ofLine _
    · exact (Runs.ofCalls _ _).trans (Runs.ofLine _)

theorem Runs.ofMakeRate (r : Nat) (s : State) : Runs s (makeRate r s) := (Runs.ofPass s).trans (Moves.ofPost _ _).runs

theorem Runs.ofTakeRate (r : Nat) (s : State) : Runs s (takeRate r s).1 := by
  unfold takeRate
  split_ifs
  · exact Runs.ofPass s
  · exact Runs.ofMakeRate r s
  · exact Runs.ofLine s

theorem displacement_le (t : Nat) : displacement t ≤ 32 := by
  unfold displacement
  dsimp only
  split_ifs <;> omega

theorem bump_le (n : Nat) : bump n ≤ Config.countMax := Nat.min_le_left _ _

theorem LineUnit.stopped_qualitySound {l : LineUnit} (h : l.qualitySound) (mark : Bool) (rx : Case2) :
    (l.stopped mark rx).qualitySound := by
  obtain ⟨disp, last, peak, count, overs, framing⟩ := h
  have p := percent_le disp
  have q : (if l.threshold < percent l.maxDisp then bump l.overCount else l.overCount) ≤ Config.countMax := by
    split_ifs
    · exact bump_le _
    · exact overs
  cases mark with
  | true => exact ⟨Nat.zero_le _, p, Nat.max_le.mpr ⟨peak, p⟩, bump_le _, q, framing⟩
  | false => exact ⟨disp, p, Nat.max_le.mpr ⟨peak, p⟩, bump_le _, q, bump_le _⟩

theorem Runs.ofStopped (s : State) (mark : Bool) (rx : Case2) : Runs s (s.setLine (s.line.stopped mark rx)) := by
  cases mark <;> exact Runs.ofLine s (hq := fun h => LineUnit.stopped_qualitySound h _ _)

theorem Moves.ofStopReports (l : LineUnit) (mark : Bool) (s : State) : Moves s (stopReports l mark s) :=
  have distorted : Moves s (if l.threshold < percent l.maxDisp then setFlag .distortionSeen s else s) :=
    .ite (Moves.ofFlag s _) (.refl s)
  have reported := distorted.trans (.ite (p := l.threshold < percent l.maxDisp ∧ l.distReported = false) (Moves.ofPost _ _) (.refl _))
  .ite reported (reported.trans (Moves.ofFlag _ _))

theorem Moves.ofCaptureSee (y : Symbol) (s : State) : Moves s (captureSee y s) := by
  have joined : Moves s (s.setCalls { s.calls with
      captured := s.calls.captured ++ [y], captureStartT := false, captureGapT := true }) := Moves.ofCalls s rfl
  exact .ite (.ite (joined.trans (Moves.ofCaptureEnd _)) joined) (.refl s)

theorem Runs.ofTriggerAct (a : TriggerAction) (s : State) : Runs s (triggerAct a s) := by
  cases a with
  | endMessage => exact (Moves.ofCloseLine (by decide) s).runs
  | clearRequest => exact (Moves.ofClearRequest .trigger s).runs
  | openGate => exact Runs.ofDist s
  | shutGate => exact Runs.ofDist s
  | sendHeld => exact (Moves.ofCollectionStart s).runs
  | report => exact .refl s

theorem Runs.ofTriggerActs (found : List (Nat × TriggerAction)) (s : State) : Runs s (triggerActs found s) := by
  induction found generalizing s with
  | nil => exact .refl s
  | cons e rest ih => exact (Runs.ofTriggerAct e.2 s).trans ((Moves.ofPost _ _).runs.trans (ih _))

theorem joinHistory_length (h : List Symbol) (y : Symbol) : (joinHistory h y).length ≤ 8 := by
  simp only [joinHistory, List.length_drop]
  omega

theorem Runs.ofRecognise (y : Symbol) (s : State) : Runs s (recognise y s) := by
  have joined : Runs s (s.setDist { s.dist with history := joinHistory s.dist.history y }) :=
    Runs.ofDist s (hh := fun _ => joinHistory_length _ _)
  unfold recognise
  split
  · exact .refl s
  · dsimp only
    split
    · exact joined
    · exact joined.trans ((Runs.ofTriggerActs _ _).trans (Runs.ofDist _ (hh := fun _ => Nat.zero_le _)))

theorem Runs.ofHandOff (y : Symbol) (s : State) : Runs s (handOff y s) := by
  have drawn : Runs s (drawFree s) := (Keeps.ofFree s _).runs
  have sees (u : State) := (Moves.ofCaptureSee y u).runs
  unfold handOff
  split_ifs
  · exact drawn.trans ((sees _).trans (Runs.ofRecognise y _))
  · exact drawn.trans ((Runs.ofRecognise y _).trans (sees _))
  · exact Runs.ofRecognise y s

theorem Moves.ofReceivedWru (y : Symbol) (s : State) : Moves s (receivedWru y s) := .ite (Moves.ofAnswerBack s) (.refl s)

/-! ## The keyboard -/

theorem Runs.ofChangeMode (m : KbMode) (s : State) : Runs s (changeMode m s) := by
  have changed : Runs s (post (.keyboardMode m) (s.setKb { s.kb with mode := m })) :=
    (Runs.ofKb s).trans (Moves.ofPost _ _).runs
  unfold changeMode
  split_ifs
  · exact .refl s
  · cases m with
    | line => exact changed.trans (Moves.ofOfferHead _).runs
    | loc => exact changed.trans ((Moves.ofLeave _ .keyboard).trans (Moves.ofOfferHead _)).runs

theorem Runs.ofKeyFunction (f : Function) (s : State) : Runs s (keyFunction f s) := by
  cases f with
  | hereIs => exact (Moves.ite (.refl s) (Moves.ofAnswerBack s)).runs
  | wru => exact (Moves.ite (Moves.ofWruAsk s) (.refl s)).runs
  | breakIn => exact ((Moves.ofHoldBoth .key s).trans (Moves.ofPost _ .keyBreak)).runs
  | lineLocal => exact Runs.ofChangeMode _ s
  | send =>
    have sent (c : Chan) (u : State) : Moves u (told c (triggerChan c .sendKey u)) := Moves.ofTold (Moves.ofTrigger c .sendKey u)
    exact (Moves.ite (.refl s) ((sent .ch0 s).trans (sent .ch1 _))).runs
  | report n => exact (Moves.ofPost s (.key n)).runs

theorem Runs.ofKeyAct (a : Assignment) (s : State) : Runs s (keyAct a s) := by
  cases a with
  | none => exact .refl s
  | shift => exact .refl s
  | symbol y => exact ((Moves.ofTypeSymbol y s).trans (Moves.ofKick _)).runs
  | function f => exact (Runs.ofKeyFunction f s).trans (Moves.ofKick _).runs

theorem Runs.ofTakeKeys (ns : List Nat) (s : State) : Runs s (takeKeys ns s) := by
  induction ns generalizing s with
  | nil => exact .refl s
  | cons n rest ih => exact (Runs.ofKeyAct _ s).trans (ih _)

theorem overwrite_length {α : Type} {xs run : List α} {first : Nat} (h : first + run.length ≤ xs.length) :
    (overwrite xs first run).length = xs.length := by
  simp only [overwrite, List.length_append, List.length_take, List.length_drop]
  omega

theorem checkAssignments_length {es : List (Byte × Byte)} {run : List Assignment} (h : checkAssignments es = some run) :
    run.length = es.length := by
  induction es generalizing run with
  | nil => cases h; rfl
  | cons e es ih =>
    unfold checkAssignments at h
    split at h
    · next rest _ hrest => cases h; exact congrArg (· + 1) (ih hrest)
    · cases h

/-! ## The printer and the punch -/

theorem Printer.takeFrom_queue (p : Printer) (ys : List Symbol) : (p.takeFrom ys).queue.length ≤ ys.length := (p.takeFrom_spec ys).2

theorem Printer.beginFollowOn_queue (p : Printer) : p.beginFollowOn.queue = p.queue := by
  unfold Printer.beginFollowOn
  split <;> rfl

theorem Printer.proceed_queue (p : Printer) : p.proceed.1.queue.length ≤ p.queue.length := by
  unfold Printer.proceed
  split_ifs
  · rw [p.beginFollowOn_queue]
  · exact Nat.le_refl _
  · exact p.takeFrom_queue _

theorem Printer.stepColumn_queue (p : Printer) : p.stepColumn.queue = p.queue := by
  unfold Printer.stepColumn
  split_ifs
  · rfl
  · split <;> rfl

theorem Printer.fixTarget_queue (p : Printer) : p.fixTarget.queue = p.queue := by
  unfold Printer.fixTarget
  split <;> rfl

theorem Printer.finishReturn_queue (p : Printer) (cause : CrCause) (t : CrTarget) : (p.finishReturn cause t).queue = p.queue := by
  unfold Printer.finishReturn
  cases cause with
  | queue => dsimp only; split_ifs <;> rfl
  | wrap => rfl
  | restart => rfl
  | homing => rfl

theorem Printer.loadNow_queue (p : Printer) (f : Format) : (p.loadNow f).queue = p.queue := by
  unfold Printer.loadNow
  dsimp only
  split_ifs <;> rfl

/-- A change that does not lengthen the print queue. -/
theorem Runs.ofPrinter (s : State) {p : Printer} (h : p.queue.length ≤ s.printer.queue.length := by exact Nat.le_refl _) : Runs s (s.setPrinter p) :=
  (Keeps.ofPrinter s h.trans).runs

/-- A change that does not lengthen the punch queue. -/
theorem Runs.ofPunch (s : State) {p : Punch} (h : p.queue.length ≤ s.punch.queue.length := by exact Nat.le_refl _) : Runs s (s.setPunch p) :=
  (Keeps.ofPunch s h.trans).runs

theorem Runs.ofPrinterProceed (s : State) : Runs s (printerProceed s) := by
  have went := Runs.ofPrinter s s.printer.proceed_queue
  exact .ite (went.trans (Moves.ofPost _ _).runs) went

theorem Runs.ofPrinterReady (s : State) : Runs s (printerReady s) := by
  refine (Moves.ofPost s .printerReady).runs.trans (Runs.ofPrinter _ ?_)
  dsimp only
  split_ifs
  · exact Printer.takeFrom_queue _ _
  · rw [Printer.beginFollowOn_queue]; rfl

theorem Runs.ofReturnComplete (cause : CrCause) (t : CrTarget) (s : State) : Runs s (returnComplete cause t s) := by
  have finished := Runs.ofPrinter s (p := s.printer.finishReturn cause t) (by rw [Printer.finishReturn_queue])
  have loaded : Runs s (if t.fromPending then post .formatLoaded (s.setPrinter (s.printer.finishReturn cause t))
      else s.setPrinter (s.printer.finishReturn cause t)) := .ite (finished.trans (Moves.ofPost _ _).runs) finished
  refine .ite (.ite ?_ ?_) (loaded.trans (Runs.ofPrinterProceed _))
  · exact loaded.trans ((Runs.ofPrinter _).trans ((Runs.ofPrinter _).trans (Moves.ofPost _ _).runs))
  · exact loaded.trans ((Runs.ofPrinter _).trans (Runs.ofPrinterReady _))

theorem Punch.take_queue (p : Punch) : p.take.queue.length ≤ p.queue.length := p.take_spec.2

theorem Punch.beginRow_queue (p : Punch) : p.beginRow.queue = p.queue := by
  unfold Punch.beginRow
  split <;> rfl

theorem Punch.setOff_queue (p : Punch) (cause : OffCause) : (p.setOff cause).1.queue = p.queue := by
  unfold Punch.setOff
  cases cause <;> (dsimp only; split_ifs <;> rfl)

theorem Punch.clearOff_queue (p : Punch) (cause : OffCause) : (p.clearOff cause).1.queue.length ≤ p.queue.length := by
  unfold Punch.clearOff
  extract_lets q r
  have same : r.queue = p.queue := by cases cause <;> rfl
  split_ifs
  · exact same ▸ Nat.le_refl _
  · exact same ▸ Punch.take_queue { r with engine := .idle }
  · exact same ▸ Nat.le_refl _

theorem Punch.endOperation_queue (p : Punch) : p.endOperation.1.queue.length ≤ p.queue.length := by
  unfold Punch.endOperation
  split_ifs
  · exact Nat.le_refl _
  · exact Nat.le_refl _
  · exact p.take_queue

theorem Punch.resumed_queue (p : Punch) : p.resumed.1.queue.length ≤ p.queue.length := by
  unfold Punch.resumed
  dsimp only
  split_ifs
  · exact Punch.take_queue _
  · exact Nat.le_refl _

theorem Punch.feed_queue (p : Punch) (n : Nat) : (p.feed n).queue.length ≤ p.queue.length + n := by
  unfold Punch.feed
  dsimp only
  split_ifs
  · refine (Punch.take_queue _).trans ?_
    simp
  · simp

theorem Runs.ofPunchClear (cause : OffCause) (s : State) : Runs s (punchClear cause s) := by
  have cleared := Runs.ofPunch s (s.punch.clearOff_queue cause)
  exact .ite (cleared.trans (Moves.ofPost _ _).runs) cleared

theorem Moves.ofPunchEntered (cause : Option OffCause) (s : State) : Moves s (punchEntered cause s) := by
  cases cause with
  | none => exact .refl s
  | some k => exact (Moves.ofPost s _).trans (Moves.ofSinkEntered _)

theorem Runs.ofPunchSet (cause : OffCause) (s : State) : Runs s (punchSet cause s) :=
  (Runs.ofPunch s (by rw [Punch.setOff_queue])).trans (Moves.ofPunchEntered _ _).runs

theorem Runs.ofTapeRunsOut (s : State) : Runs s (tapeRunsOut s) := (Runs.ofPunch s).trans (Moves.ofPost _ _).runs

/-! ## The identity store -/

theorem Runs.ofLoadLatch (s : State) : Runs s (loadLatch s) :=
  (Runs.ofIdent s).trans (Moves.ofPostAll _ _).runs

theorem Runs.ofEndCommit (e : Event) (s : State) : Runs s (endCommit e s) :=
  (Runs.ofIdent s).trans ((Moves.ofPost _ _).runs.trans (Runs.ofLoadLatch _))

theorem Runs.ofBeginProgram (n first : Nat) (text : List Byte) (s : State) : Runs s (beginProgram n first text s) := by
  have spent := s.ident.setSlot_falls n (s.ident.slot n).spendCount_falls
  exact .ite (Runs.ofIdent s (Identity.falls_trans spent (Identity.falls_of_cells rfl id)))
    ((Runs.ofIdent s spent).trans (Moves.ofPost _ _).runs)

/-! ## The store -/

theorem Moves.ofReadSpans (n : Nat) (pieces : List (Nat × Nat × Nat)) (s : State) : Moves s (readSpans n pieces s).1 := by
  induction pieces generalizing s with
  | nil => exact .refl s
  | cons q rest ih => exact (Moves.ofReadBlock n q.1 .readText none s).trans (ih _)

theorem Store.remove_directory (t : Store) (r : Record) :
    (t.remove r).directory = t.directory.filter (fun q => q.number ≠ r.number) := by
  unfold Store.remove
  cases r.holder with
  | none => rfl
  | some h => simp only [Store.setSlot_directory]; rfl

/-- Nothing but the blocks, the slots and the directory of a store changes where a message is removed. -/
theorem Store.remove_blocks (t : Store) (r : Record) : (t.remove r).free = (t.releaseChain r.chain).free
    ∧ (t.remove r).retired = (t.releaseChain r.chain).retired ∧ (t.remove r).counter = t.counter
    ∧ (t.remove r).memory = t.memory := by
  unfold Store.remove
  rcases r.holder with _ | _ | _ | (_ | _) <;> exact ⟨rfl, rfl, rfl, rfl⟩

/-- The released blocks go from the chain to the free queue and the retired set, and the record goes (R83, R103). -/
theorem Store.remove_sound {t : Store} (w : t.Sound) {r : Record} (hr : r ∈ t.directory) : (t.remove r).Sound := by
  obtain ⟨free, retired, counter, memory⟩ := t.remove_blocks r
  have kept := t.remove_directory r
  have sub : ∀ q ∈ (t.remove r).directory, q ∈ t.directory := fun q hq => List.mem_of_mem_filter (kept ▸ hq)
  have parted : (blocksOf t.directory).Perm (r.chain.map (·.block) ++ blocksOf (t.remove r).directory) := by
    rw [kept]
    exact blocksOf_perm (filter_number hr w.distinct)
  have all : (t.free ++ t.retired ++ (r.chain.map (·.block) ++ blocksOf (t.remove r).directory)).Perm (List.range Config.blocks) :=
    (parted.symm.append_left _).trans w.blocks
  have fresh : ((r.chain.filter (·.damaged)).map (·.block) ++ t.retired).Nodup := by
    have whole : (t.free ++ t.retired ++ (r.chain.map (·.block) ++ blocksOf (t.remove r).directory)).Nodup :=
      all.nodup_iff.mpr List.nodup_range
    have inner : (t.retired ++ r.chain.map (·.block)).Nodup := by
      rw [List.append_assoc, ← List.append_assoc t.retired] at whole
      exact (List.nodup_append.mp (List.nodup_append.mp whole).2.1).1
    exact (List.perm_append_comm.nodup_iff).mp (inner.sublist ((List.filter_sublist.map _).append_left _))
  refine ⟨?_, ?_, fun q hq => w.numbers q (sub q hq), counter ▸ w.counter, ?_, memory ▸ w.canonical, memory ▸ w.within⟩
  · rw [free, retired]
    refine List.Perm.trans ?_ all
    calc t.free ++ (r.chain.filter fun b => !b.damaged).map (·.block)
          ++ (r.chain.filter (·.damaged)).foldl (fun set b => insertAsc b.block set) t.retired ++ blocksOf (t.remove r).directory
      _ |>.Perm (t.free ++ (r.chain.filter fun b => !b.damaged).map (·.block)
          ++ ((r.chain.filter (·.damaged)).map (·.block) ++ t.retired) ++ blocksOf (t.remove r).directory) :=
        ((insertAsc_fold fresh).append_left _).append_right _
      _ |>.Perm (t.free ++ (r.chain.map (·.block) ++ t.retired) ++ blocksOf (t.remove r).directory) := by
        refine List.Perm.append_right _ ?_
        rw [List.append_assoc, ← List.append_assoc ((r.chain.filter fun b => !b.damaged).map (·.block))]
        exact ((chain_split r.chain).append_right _).append_left _
      _ |>.Perm (t.free ++ t.retired ++ (r.chain.map (·.block) ++ blocksOf (t.remove r).directory)) := by
        rw [List.append_assoc, List.append_assoc, List.append_assoc, ← List.append_assoc t.retired]
        refine List.Perm.append_left _ ?_
        rw [← List.append_assoc]
        exact List.perm_append_comm.append_right _
  · rw [kept]
    exact w.distinct.sublist (List.filter_sublist.map _)
  · rw [kept]
    exact (List.length_filter_le _ _).trans w.room

/-- The holder's slot of a record is emptied, and no other. -/
theorem Store.remove_slot (t : Store) (r : Record) (h : Holder) :
    (t.remove r).slot h = if r.holder = some h then none else t.slot h := by
  unfold Store.remove
  cases e : r.holder with
  | none => simp only [reduceCtorEq, if_false]; exact Store.slot_directory rfl rfl rfl rfl h
  | some k =>
    dsimp only
    rw [show ∀ u : Store, Store.slot { u with directory := u.directory.filter (fun q => q.number ≠ r.number) } h = u.slot h from
      fun u => Store.slot_directory rfl rfl rfl rfl h]
    by_cases same : k = h
    · rw [same, if_pos rfl, Store.setSlot_same]
    · rw [if_neg (by simpa using same), Store.setSlot_ne _ _ (Ne.symm same)]
      exact Store.slot_directory rfl rfl rfl rfl h

theorem Store.remove_slots {t : Store} (w : t.SlotsAgree) {r : Record} (hr : r ∈ t.directory) : (t.remove r).SlotsAgree := by
  have kept := t.remove_directory r
  have mem (q : Record) : q ∈ (t.remove r).directory ↔ q ∈ t.directory ∧ q.number ≠ r.number := by
    rw [kept]
    simp
  refine ⟨fun h n => ?_, fun q hq => w.holders q ((mem q).mp hq).1, ?_⟩
  · rw [t.remove_slot]
    constructor
    · intro e
      split_ifs at e with held
      obtain ⟨q, hq, number, opened, holder⟩ := (w.slots h n).mp e
      refine ⟨q, (mem q).mpr ⟨hq, fun same => held ?_⟩, number, opened, holder⟩
      rw [← number_unique w.distinct hq hr same]
      exact holder
    · rintro ⟨q, hq, number, opened, holder⟩
      obtain ⟨inside, other⟩ := (mem q).mp hq
      rw [if_neg, w.slots]
      · exact ⟨q, inside, number, opened, holder⟩
      · intro held
        have mine := (w.slots h r.number).mpr ⟨r, hr, rfl, (w.holders r hr).mpr (by simp [held]), held⟩
        have its := (w.slots h q.number).mpr ⟨q, inside, rfl, opened, holder⟩
        exact other (Option.some.inj (its.symm.trans mine))
  · rw [kept]
    exact w.distinct.sublist (List.filter_sublist.map _)

end Sys2Proof.Machine
end

section
-- One proof is elaborated at a time: the threads of many at once do not fit the memory a check allows.
set_option Elab.async false

/-! SUPPORT. What every command and event but a reset keeps, one lemma for each, and the invariants that follow: no command touches
the queue of commands, the store stays sound and in agreement with its open slots, the queues stay bounded, the identity cells
only fall, and the ports only grow. -/

namespace Sys2Proof.Machine

/-- What an operation keeps that was taken at the port p, if at any, and may have left its answer there. -/
structure Acts (p : Option Port) (s t : State) : Prop where
  sound : s.store.Sound → t.store.Sound
  slots : s.store.Sound → s.store.SlotsAgree → t.store.SlotsAgree
  bounded : s.Bounded → t.Bounded
  falls : s.ident.Falls t.ident
  pending : t.pending = s.pending
  grows : ∀ q, p ≠ some q → (s.port q).Grows (t.port q)
  entries : ∀ q, (s.port q).queue <+: (t.port q).queue
  flags : ∀ q, (s.port q).flags.le (t.port q).flags

theorem Keeps.grows {s t : State} (h : Keeps s t) (q : Port) : (s.port q).Grows (t.port q) := by
  cases q
  · exact h.sGrows
  · exact h.xGrows

theorem Runs.acts {s t : State} (h : Runs s t) {p : Option Port} : Acts p s t where
  sound := h.sound
  slots := h.slots
  bounded := h.bounded
  falls := h.falls
  pending := h.pending
  grows := fun q _ => h.grows q
  entries := fun q => (h.grows q).2.2.1
  flags := fun q => (h.grows q).2.2.2.1

theorem Acts.trans {p : Option Port} {s t u : State} (a : Acts p s t) (b : Acts p t u) : Acts p s u where
  sound := b.sound ∘ a.sound
  slots := fun w h => b.slots (a.sound w) (a.slots w h)
  bounded := b.bounded ∘ a.bounded
  falls := Identity.falls_trans a.falls b.falls
  pending := b.pending.trans a.pending
  grows := fun q h => PortState.grows_trans (a.grows q h) (b.grows q h)
  entries := fun q => (a.entries q).trans (b.entries q)
  flags := fun q => Flags.le_trans (a.flags q) (b.flags q)

/-- The port at which a command is taken changes in what is neither its queue nor its flags. -/
theorem Acts.ofPort (s : State) (p : Port) {v : PortState} (hq : v.queue = (s.port p).queue) (hf : v.flags = (s.port p).flags) :
    Acts (some p) s (s.setPort p v) where
  sound := by rw [State.setPort_store]; exact id
  slots := by rw [State.setPort_store]; exact fun _ => id
  bounded := fun b => by
    cases p with
    | s => exact { b with sEvents := hq ▸ b.sEvents }
    | x => exact { b with xEvents := hq ▸ b.xEvents }
  falls := by rw [State.setPort_ident]; exact s.ident.falls_refl
  pending := State.setPort_pending s p v
  grows := fun q h => by
    rw [State.setPort_port_ne s p q v fun e => h (congrArg some e.symm)]
    exact (s.port q).grows_refl
  entries := fun q => by
    by_cases e : q = p
    · rw [e, State.setPort_port, hq]
    · rw [State.setPort_port_ne s p q v e]
  flags := fun q => by
    by_cases e : q = p
    · rw [e, State.setPort_port, hf]
      exact Flags.le_refl _
    · rw [State.setPort_port_ne s p q v e]
      exact Flags.le_refl _

theorem Acts.ofAnswer (s : State) (p : Port) (a : Answer) : Acts (some p) s (s.answer p a) := Acts.ofPort s p rfl rfl

/-- A command answers a next state that Acts relates to the first. -/
def Gives (p : Option Port) (s : State) (r : Result) : Prop := ∃ t, r = .next t ∧ Acts p s t

theorem Gives.intro {p : Option Port} {s t : State} (h : Acts p s t) : Gives p s (.next t) := ⟨t, rfl, h⟩

theorem Gives.ite {p : Option Port} {s : State} {c : Prop} [Decidable c] {a b : Result} (x : c → Gives p s a)
    (y : ¬ c → Gives p s b) : Gives p s (if c then a else b) := by
  split_ifs with h
  · exact x h
  · exact y h

theorem Gives.runs {p : Option Port} {s t : State} (h : Runs s t) : Gives p s (.next t) := .intro h.acts

theorem Gives.kept {p : Option Port} {s : State} : Gives p s (.next s) := .runs (.refl s)

/-- A command is carried out and then answered. -/
theorem Gives.answered {s t : State} {p : Port} {a : Answer} (h : Runs s t) : Gives (some p) s (.next (t.answer p a)) :=
  .intro (h.acts.trans (Acts.ofAnswer t p a))

theorem Gives.done {s t : State} {p : Port} {code : Byte} {result : List Byte} (h : Runs s t) :
    Gives (some p) s (.next (t.done p code result)) := .answered h

theorem Gives.begun {s t : State} {p : Port} {code : Byte} {result : List Byte} (h : Runs s t) :
    Gives (some p) s (.next (t.begun p code result)) := .answered h

theorem Gives.refuse {s t : State} {p : Port} {code : Byte} {r : Reason} (h : Runs s t := by exact .refl _) :
    Gives (some p) s (.next (t.refuse p code r)) := .answered h

/-- After what it does and its answer a command lets the transmitter look for a character. -/
theorem Gives.kicked {p : Option Port} {s t : State} (h : Gives p s (.next t)) : Gives p s (.next (kick t)) := by
  obtain ⟨u, e, acts⟩ := h
  cases e
  exact .intro (acts.trans (Moves.ofKick t).runs.acts)

theorem Gives.moves {p : Option Port} {s t : State} (h : Runs s t) : Gives p s (.next (kick t)) := (Gives.runs h).kicked

/-! ## The ports -/

theorem execMalformedRequest_gives (p : Port) (bytes : List Byte) (s : State) : Gives (some p) s (execMalformedRequest p bytes s) := by
  unfold execMalformedRequest
  split
  · exact .refuse
  · exact .kept
  · exact .kept

theorem execSetEventMask_gives (p : Port) (mask : BitVec 48) (s : State) : Gives (some p) s (execSetEventMask p mask s) :=
  .ite (fun _ => .refuse) fun _ => .intro ((Acts.ofPort s p (by rfl) (by rfl)).trans (Acts.ofAnswer _ p _))

/-! ## The Line Unit -/

theorem Runs.ofConfigure (s : State) (presence stop : Byte) (breakTime : Half) (threshold txUsos rxUsos release : Byte) :
    Runs s (s.setLine (s.line.configure presence stop breakTime threshold txUsos rxUsos release)) := Runs.ofLine s

theorem execConfigureLine_gives (p : Port) (presence rate stop : Byte) (brk : Half) (thr tx rx rel : Byte) (ms : Nat) (s : State) :
    Gives (some p) s (execConfigureLine p presence rate stop brk thr tx rx rel ms s) := by
  refine .ite (fun _ => .refuse) fun _ => ?_
  extract_lets s1 e s2 result s3
  have h1 : Runs s s1 := Runs.ofConfigure s _ _ _ _ _ _ _
  have h2 : Runs s e.1 := by
    dsimp only [e]
    split_ifs
    · exact h1.trans (Runs.ofTakeRate _ _)
    · exact h1
  have h3 : Runs s s2 := .ite (h2.trans (Runs.ofDeclareBreak _)) h2
  refine Gives.kicked ?_
  dsimp only [s3]
  split_ifs
  · exact .begun h3
  · exact .done h3

theorem execReceiveOn_gives (p : Port) (s : State) : Gives (some p) s (execReceiveOn p s) := by
  refine .done ?_
  split_ifs
  · exact Runs.ofLine s (hq := LineUnit.hunt_quality)
  · exact Runs.ofLine s (hq := fun h => ⟨Nat.zero_le _, h.2⟩)
  · exact Runs.ofLine s

theorem execReceiveOff_gives (p : Port) (s : State) : Gives (some p) s (execReceiveOff p s) := by
  refine .done ?_
  split_ifs
  · exact Runs.ofLine s
  · exact Runs.ofLine s (hq := fun h => ⟨Nat.zero_le _, h.2⟩)

theorem execStartEdge_gives (s : State) : Gives none s (execStartEdge s) := by
  refine .ite (fun _ => .kept) fun _ => ?_
  have turned : Runs s (s.setPins { s.pins with lineMark := false }) := (Keeps.ofPins s _).runs
  exact .ite (fun _ => .runs (turned.trans (Runs.ofLine _ (hq := fun h => ⟨Nat.zero_le _, h.2⟩)))) fun _ => .runs turned

theorem execStartCheck_gives (s : State) : Gives none s (execStartCheck s) := by
  refine .ite (fun _ => .runs ?_) fun _ => .kept
  split_ifs
  · exact Runs.ofLine s (hq := LineUnit.hunt_quality)
  · exact Runs.ofLine s

theorem execTimedTransition_gives (slot : Nat) (s : State) : Gives none s (execTimedTransition slot s) :=
  .ite (fun _ => .runs ((Keeps.ofPins s _).runs.trans
    (Runs.ofLine _ (hq := fun h => ⟨Nat.max_le.mpr ⟨h.1, displacement_le _⟩, h.2⟩)))) fun _ => .kept

theorem execStopSample_gives (s : State) : Gives none s (execStopSample s) := by
  by_cases sampled : s.line.rx = .assembling ∧ s.line.units.length = 5
  case neg => rw [execStopSample, if_neg sampled]; exact .kept
  rw [execStopSample, if_pos sampled]
  extract_lets c p s1 s2 s3 s4
  have h1 : Runs s s1 := (Runs.ofStopped s _ _).trans (Moves.ofStopReports _ _ _).runs
  have h2 : Runs s s2 := h1.trans (Moves.ofReceiveDeliver _ _ _ _).runs
  have h3 : Runs s s3 := h2.trans ((Runs.ofHandOff _ _).trans (Moves.ofReceivedWru _ _).runs)
  exact .moves (.ite (h3.trans (Runs.ofDeclareBreak _)) h3)

theorem execMarkReturn_gives (s : State) : Gives none s (execMarkReturn s) := by
  refine .ite (fun _ => .kept) fun _ => ?_
  have turned : Runs s (s.setPins { s.pins with lineMark := true }) := (Keeps.ofPins s _).runs
  refine .ite (fun _ => ?_) fun _ => .runs turned
  have hunting := turned.trans (Runs.ofLine _ (l := { s.line with breakDeclared := false }.hunt)
    (hq := by exact fun h => ⟨Nat.zero_le _, h.2⟩))
  exact .ite (fun _ => .runs (hunting.trans (Runs.ofCalls _ _))) fun _ => .runs hunting

theorem execLineRate_gives (s : State) : Gives none s (execLineRate s) := by
  unfold execLineRate
  split
  · exact .ite (fun _ => .moves (Runs.ofMakeRate _ s)) fun _ => .kept
  · exact .kept

theorem execReleaseIntervalExpiry_gives (s : State) : Gives none s (execReleaseIntervalExpiry s) := by
  refine .ite (fun _ => .moves (Moves.runs (Moves.ofLine s ?_ ?_))) fun _ => .kept
  · rw [LineUnit.release_still]; rfl
  · exact fun h => LineUnit.release_sound (l := { s.line with releaseRun := none }) h _

/-! ## The Keyboard Scanner and the Distributor -/

theorem execRoute_gives (p : Port) (row function mask : Byte) (s : State) : Gives (some p) s (execRoute p row function mask s) := by
  unfold execRoute
  split
  · exact .refuse
  · next r k _ =>
    extract_lets lost s1 s2 s3
    have h1 : Runs s s1 := by
      dsimp only [s1]
      cases r <;> exact Runs.ofDist s
    have h2 : Runs s s2 := .ite (h1.trans (Moves.ofLeave _ _).runs) h1
    exact (Gives.done (.ite (h2.trans (Moves.ofOfferHead _).runs) h2)).kicked

theorem execSetTrigger_gives (p : Port) (entry enable action : Byte) (pattern : List Byte) (s : State) :
    Gives (some p) s (execSetTrigger p entry enable action pattern s) := by
  refine .ite (fun _ => .refuse) fun _ => ?_
  split
  · exact .refuse
  · exact .done (Runs.ofDist s (ht := fun h => by rwa [List.length_set]))

theorem execSetGating_gives (p : Port) (gated : Byte) (s : State) : Gives (some p) s (execSetGating p gated s) := by
  unfold execSetGating
  split
  · exact .refuse
  · exact .done (Runs.ofDist s)

theorem execLoadKeymap_gives (p : Port) (plane first : Byte) (entries : List (Byte × Byte)) (s : State) :
    Gives (some p) s (execLoadKeymap p plane first entries s) := by
  refine .ite (fun _ => .refuse) fun _ => .ite (fun _ => .refuse) fun fits => ?_
  split
  · exact .refuse
  · next run taken =>
    have size (xs : List Assignment) (h : xs.length = 64) : (overwrite xs first.toNat run).length = 64 := by
      rw [not_or] at fits
      rw [overwrite_length, h]
      rw [checkAssignments_length taken, h]
      omega
    refine .done ?_
    split_ifs
    · exact Runs.ofKb s (h0 := size _)
    · exact Runs.ofKb s (h1 := size _)

theorem execSetKeyboardMode_gives (p : Port) (mode : Byte) (s : State) : Gives (some p) s (execSetKeyboardMode p mode s) := by
  unfold execSetKeyboardMode
  split
  · exact .refuse
  · exact (Gives.done (Runs.ofChangeMode _ s)).kicked

theorem execKeyScan_gives (seen : BitVec 64) (s : State) : Gives none s (execKeyScan seen s) :=
  .runs ((Runs.ofKb s (hk := length_scanKeys _ _ _)).trans (Runs.ofTakeKeys _ _))

theorem execKeyboardDelivery_gives (s : State) : Gives none s (execKeyboardDelivery s) := by
  unfold execKeyboardDelivery
  dsimp only
  split
  · exact .moves (.refl s)
  · next typed =>
    exact .ite (fun ready => .moves ((Moves.ofKeyboardLeave _ typed ready.2).trans (Moves.ofOfferHead _)).runs)
      fun _ => .ite (fun _ => .moves (Moves.ofDiscardHeads s).runs) fun _ => .moves (.refl s)

/-! ## The Traffic Store -/

theorem execCreate_gives (p : Port) (choice : Byte) (s : State) : Gives (some p) s (execCreate p choice s) := by
  unfold execCreate
  split
  · exact .refuse
  · next h _ =>
    refine .ite (fun _ => .refuse) fun free => .ite (fun allowed => .done ?_) fun _ => .refuse
    have room : s.store.directory.length < Config.directorySize := by
      simp only [Store.createAllowed, decide_eq_true_eq] at allowed
      omega
    have empty : s.store.slot h = none := by simpa using free
    refine (Keeps.ofStore s (fun w => Store.createMsg_sound w room _ h) fun w a => ?_).runs
    have small : Config.directorySize ≤ 9997 := by decide
    exact Store.createMsg_slots a empty (Store.nextFree_fresh w.counter (room.le.trans small)).2 _

theorem execAppendText_gives (p : Port) (message : Half) (text : List Byte) (s : State) :
    Gives (some p) s (execAppendText p message text s) := by
  refine .ite (fun _ => .refuse) fun _ => ?_
  split
  · exact .refuse
  · refine .ite (fun _ => .refuse) fun _ => .ite (fun _ => .refuse) fun _ => ?_
    split
    · exact .refuse
    · exact (Gives.answered (Moves.ofAppendAll _ _ s).runs).kicked

theorem execClose_gives (p : Port) (message : Half) (s : State) : Gives (some p) s (execClose p message s) := by
  unfold execClose
  dsimp only
  split
  · exact .refuse
  · exact .ite (fun _ => .refuse) fun _ => .ite (fun _ => .refuse) fun _ =>
      (Gives.done (Moves.ofClose _ (by decide) s).runs).kicked

theorem execReadText_gives (p : Port) (message first : Half) (count : Byte) (s : State) :
    Gives (some p) s (execReadText p message first count s) := by
  unfold execReadText
  dsimp only
  split
  · exact .refuse
  · exact .ite (fun _ => .refuse) fun _ => .answered (Moves.ofReadSpans _ _ s).runs

theorem execReadRecord_gives (p : Port) (selector : Byte) (value : Half) (clear : Byte) (s : State) :
    Gives (some p) s (execReadRecord p selector value clear s) := by
  unfold execReadRecord
  split
  · exact .refuse
  · split
    · split
      · exact .done (.refl s)
      · exact .refuse
    · split
      · exact .done (.refl s)
      · exact .refuse
    · refine .done ?_
      dsimp only
      split_ifs
      · exact Runs.ofStore s (h := fun w => { w with })
      · exact Runs.ofStore s (h := id)
    · exact .refuse

theorem deliveryForms_same {presence option : Byte} {identity destination : List Byte} {r r' : Record}
    (h : deliveryForms presence option identity destination r = some r') :
    r'.number = r.number ∧ r'.chain = r.chain ∧ r'.state = r.state ∧ r'.holder = r.holder := by
  unfold deliveryForms at h
  dsimp only at h
  split at h
  · cases h; exact ⟨rfl, rfl, rfl, rfl⟩
  · cases h

theorem execSetDelivery_gives (p : Port) (message : Half) (presence option : Byte) (identity destination : List Byte) (s : State) :
    Gives (some p) s (execSetDelivery p message presence option identity destination s) := by
  unfold execSetDelivery
  dsimp only
  split
  · exact .refuse
  · next found =>
    refine .ite (fun _ => .refuse) fun _ => .ite (fun _ => .refuse) fun _ => ?_
    split
    · exact .refuse
    · next formed =>
      obtain ⟨number, chain, state, holder⟩ := deliveryForms_same formed
      exact .done (Moves.ofReplace s found ⟨number, by rw [chain], state, holder⟩).runs

theorem execDelete_gives (p : Port) (message : Half) (s : State) : Gives (some p) s (execDelete p message s) := by
  unfold execDelete
  dsimp only
  split
  · exact .refuse
  · next r found =>
    have inside := (Store.find_mem found).1
    refine .ite (fun _ => .refuse) fun _ => .ite (fun _ => .refuse) fun _ => (Gives.done ?_).kicked
    exact ((Keeps.ofStore s (fun w => Store.remove_sound w inside) fun _ a => Store.remove_slots a inside).runs).trans
      ((Moves.ofPost _ _).trans (Moves.ofDrainTest _)).runs

theorem execClearOwed_gives (p : Port) (message : Half) (flags : Byte) (s : State) :
    Gives (some p) s (execClearOwed p message flags s) := by
  unfold execClearOwed
  dsimp only
  split
  · exact .refuse
  · next found =>
    exact .ite (fun _ => .done ((Moves.ofReplace s found (by exact ⟨rfl, rfl, rfl, rfl⟩)).trans (Moves.ofDrainTest _)).runs) fun _ => .refuse

theorem execScrub_gives (s : State) : Gives none s (execScrub s) := by
  unfold execScrub
  split
  · exact .kept
  · exact .runs ((Moves.ofReadBlock _ _ _ _ s).runs.trans (Runs.ofStore _ (h := fun w => { w with })))

/-! ## The transfer channels -/

theorem execStartChannel_gives (p : Port) (channel : Byte) (message position : Half) (sinks trigger : Byte) (s : State) :
    Gives (some p) s (execStartChannel p channel message position sinks trigger s) := by
  unfold execStartChannel
  split
  · exact .refuse
  · refine .ite (fun _ => .refuse) fun _ => ?_
    split
    · exact .refuse
    · refine .ite (fun _ => .refuse) fun _ => ?_
      split
      · exact (Gives.begun (Moves.ofTold (Moves.ofStart _ _ _ _ _ _ s)).runs).kicked
      · exact .refuse

theorem execHold_gives (p : Port) (channel : Byte) (s : State) : Gives (some p) s (execHold p channel s) := by
  unfold execHold
  split
  · exact .refuse
  · exact .ite (fun _ => .refuse) fun _ => (Gives.done (Moves.ofTold (Moves.ofHold _ _ s)).runs).kicked

theorem Moves.ofResumeChan (c : Chan) (w : ChanWork) (s : State) : Moves s (resumeChan c w s).1 := by
  unfold resumeChan
  split_ifs
  · exact Moves.ofProceed c s
  · exact Moves.ofChan s c _

theorem execResume_gives (p : Port) (channel : Byte) (s : State) : Gives (some p) s (execResume p channel s) := by
  unfold execResume
  split
  · exact .refuse
  · split
    · exact .refuse
    · split
      · exact (Gives.done (Moves.ofTold (Moves.ofResumeChan _ _ s)).runs).kicked
      · exact .refuse

theorem execStopChannel_gives (p : Port) (channel : Byte) (s : State) : Gives (some p) s (execStopChannel p channel s) := by
  unfold execStopChannel
  split
  · exact .refuse
  · exact (Gives.done (Moves.ofTold (Moves.ofStop _ s)).runs).kicked

theorem execReadChannel_gives (p : Port) (channel : Byte) (s : State) : Gives (some p) s (execReadChannel p channel s) := by
  unfold execReadChannel
  split
  · exact .refuse
  · exact .done (.refl s)

theorem chanDeliverable_ready {c : Chan} {s : State} {w : ChanWork} {y : Symbol} (h : chanDeliverable c s = some (w, y)) :
    sinksReady w.sinks s = true := by
  unfold chanDeliverable at h
  split at h
  · cases h
  · split_ifs at h with ready
    obtain ⟨_, _, e⟩ := Option.map_eq_some_iff.mp h
    cases e
    exact ready.2.2

theorem execChannelDelivery_gives (c : Chan) (s : State) : Gives none s (execChannelDelivery c s) := by
  unfold execChannelDelivery
  split
  · next ready => exact .moves ((Moves.ofSinksTake s _ _ (chanDeliverable_ready ready)).trans (Moves.ofAdvance c _)).runs
  · exact .moves (.refl s)

/-! ## The Page Printer and the Tape Punch -/

theorem execSetFormat_gives (p : Port) (presence lineLength margin spacing mode crAddsLf : Byte) (s : State) :
    Gives (some p) s (execSetFormat p presence lineLength margin spacing mode crAddsLf s) := by
  refine .ite (fun _ => .refuse) fun _ => .ite (fun _ => .done (.refl s)) fun _ => .done ?_
  have loaded (f : Format) : Runs s (s.setPrinter (s.printer.loadNow f)) :=
    Runs.ofPrinter s (by rw [Printer.loadNow_queue])
  exact .ite ((loaded _).trans (Moves.ofPost _ _).runs) (Runs.ofPrinter s)

theorem execPrinterRestart_gives (p : Port) (s : State) : Gives (some p) s (execPrinterRestart p s) :=
  .ite (fun _ => .ite (fun _ => .refuse) fun _ => .begun (Runs.ofPrinter s)) fun _ => .done (.refl s)

theorem execPrintCompletion_gives (s : State) : Gives none s (execPrintCompletion s) := by
  unfold execPrintCompletion
  split
  · exact .moves ((Runs.ofPrinter s (by rw [Printer.stepColumn_queue])).trans (Runs.ofPrinterProceed _))
  · exact .moves (Runs.ofPrinterProceed s)
  · exact .moves (Runs.ofPrinterProceed s)
  · exact .moves (Runs.ofReturnComplete _ _ s)
  · exact .kept
  · exact .kept

theorem execCarriageJam_gives (s : State) : Gives none s (execCarriageJam s) := by
  unfold execCarriageJam
  split
  · exact .moves ((Runs.ofPrinter s).trans ((Moves.ofPost _ _).trans (Moves.ofSinkEntered _)).runs)
  · exact .kept

theorem execPaperOut_gives (s : State) : Gives none s (execPaperOut s) := by
  have out : Runs s (s.setPrinter { s.printer with paperOut := true }) := Runs.ofPrinter s
  exact .ite (fun _ => .runs (out.trans ((Runs.ofPrinter _).trans (Moves.ofPost _ _).runs))) fun _ => .runs out

theorem execPaperPresent_gives (s : State) : Gives none s (execPaperPresent s) := by
  have present : Runs s (s.setPrinter { s.printer with paperOut := false }) := Runs.ofPrinter s
  exact .ite (fun _ => .moves (present.trans (Runs.ofPrinterReady _))) fun _ => .runs present

theorem execPunchFeed_gives (p : Port) (count : Half) (s : State) : Gives (some p) s (execPunchFeed p count s) := by
  refine .ite (fun _ => .refuse) fun _ => .ite (fun _ => .refuse) fun _ => .ite (fun _ => .refuse) fun room => .done ?_
  exact (Keeps.ofPunch s fun _ => (s.punch.feed_queue _).trans (Nat.le_of_not_lt room)).runs

theorem execPunchResume_gives (p : Port) (s : State) : Gives (some p) s (execPunchResume p s) := by
  refine .ite (fun _ => .ite (fun _ => .answered (.refl s)) fun _ => (Gives.done ?_).kicked) fun _ => .done (.refl s)
  have resumed := Runs.ofPunch s s.punch.resumed_queue
  exact .ite (resumed.trans (Moves.ofPost _ _).runs) resumed

theorem execConfigurePunch_gives (p : Port) (presence : Byte) (allowance : Half) (clear : Byte) (s : State) :
    Gives (some p) s (execConfigurePunch p presence allowance clear s) := by
  unfold execConfigurePunch
  split
  · exact .refuse
  · exact .done (Runs.ofPunch s)

theorem execPunchRowCompletion_gives (s : State) : Gives none s (execPunchRowCompletion s) := by
  unfold execPunchRowCompletion
  split
  · exact .kept
  · next rest _ =>
    extract_lets e counted s1 s2
    have h1 : Runs s s1 := Runs.ofPunch s
    have h2 : Runs s s2 := .ite (h1.trans (Runs.ofTapeRunsOut _)) h1
    split
    · exact .runs (h2.trans (Runs.ofPunch _ (by rw [Punch.beginRow_queue])))
    · exact .moves (h2.trans ((Runs.ofPunch _ (Punch.endOperation_queue _)).trans (Moves.ofPunchEntered _ _).runs))

theorem execTapeLow_gives (s : State) : Gives none s (execTapeLow s) := by
  refine .ite (fun _ => .kept) fun _ => .runs ?_
  have low : Runs s (post (.punchTapeLow s.punch.allowance)
      (s.setPunch { s.punch with tapeLow := true, counter := some s.punch.allowance })) :=
    (Runs.ofPunch s).trans (Moves.ofPost _ _).runs
  exact .ite (low.trans (Runs.ofTapeRunsOut _)) low

/-! ## The Identity Store -/

theorem execReadSlot_gives (p : Port) (slot : Byte) (s : State) : Gives (some p) s (execReadSlot p slot s) :=
  .ite (fun _ => .refuse) fun _ => .done (.ite ((Runs.ofIdent s (Identity.midProgram_falls _ _)).trans (Keeps.ofFree _ _).runs) (.refl s))

theorem Runs.ofReadEnable (high : Bool) (s : State) : Runs s (readEnable high s) := (Keeps.ofPins s _).runs

theorem execProgramSlot_gives (p : Port) (writeEnable : Bool) (slot first : Byte) (text : List Byte) (s : State) :
    Gives (some p) s (execProgramSlot p writeEnable slot first text s) := by
  have read := Runs.ofReadEnable writeEnable s
  refine .ite (fun _ => .refuse read) fun _ => .ite (fun _ => .refuse read) fun _ => .ite (fun _ => .refuse read) fun _ =>
    .ite (fun _ => .refuse read) fun _ => .ite (fun _ => .begun (read.trans (Runs.ofIdent _))) fun _ =>
    .ite (fun _ => .refuse read) fun _ => .ite (fun _ => .refuse read) fun _ => .ite (fun _ => .refuse read) fun _ =>
    .begun (read.trans (Runs.ofBeginProgram _ _ _ _))

theorem execCommitSlot_gives (p : Port) (writeEnable : Bool) (slot length : Byte) (s : State) :
    Gives (some p) s (execCommitSlot p writeEnable slot length s) := by
  have read := Runs.ofReadEnable writeEnable s
  refine .ite (fun _ => .refuse read) fun _ => .ite (fun _ => .refuse read) fun _ => .ite (fun _ => .refuse read) fun _ =>
    .ite (fun _ => .begun (read.trans (Runs.ofIdent _))) fun _ => .ite (fun _ => .refuse read) fun _ =>
    .ite (fun _ => .refuse read) fun _ => .ite (fun _ => .refuse read) fun _ => .begun (read.trans (Runs.ofIdent _))

theorem execProtect_gives (p : Port) (writeEnable : Bool) (s : State) : Gives (some p) s (execProtect p writeEnable s) := by
  have read := Runs.ofReadEnable writeEnable s
  exact .ite (fun _ => .refuse read) fun _ => .ite (fun _ => .refuse read) fun _ => .ite (fun _ => .done read) fun _ =>
    .begun (read.trans (Runs.ofIdent _))

theorem execProgramCompletion_gives (s : State) : Gives none s (execProgramCompletion s) := by
  unfold execProgramCompletion
  split
  · next n first text _ =>
    have fallen := s.ident.setSlot_falls n (IdSlot.writeRun_falls text (s.ident.slot n) first)
    have ended : s.ident.Falls (endOp (s.ident.setSlot n ((s.ident.slot n).writeRun first text))) :=
      Identity.falls_trans fallen (Identity.falls_of_cells rfl id)
    exact .runs ((Runs.ofIdent s ended).trans (Moves.ofPost _ _).runs)
  · exact .kept

theorem execCommitCellWrite_gives (s : State) : Gives none s (execCommitCellWrite s) := by
  unfold execCommitCellWrite
  split
  · next n length code written _ =>
    have fallen := s.ident.setSlot_falls n ((s.ident.slot n).commitCell_falls length code written)
    have wrote := Runs.ofIdent s fallen
    exact .ite (fun _ => .runs (wrote.trans (Runs.ofEndCommit _ _))) fun _ =>
      .ite (fun _ => .runs (Runs.ofIdent s (Identity.falls_trans fallen (Identity.falls_of_cells rfl id)))) fun _ =>
        .runs (wrote.trans (Runs.ofEndCommit _ _))
  · exact .kept

theorem execProtectCompletion_gives (s : State) : Gives none s (execProtectCompletion s) := by
  unfold execProtectCompletion
  split
  · exact .ite (fun _ => .runs ((Runs.ofIdent s).trans (Moves.ofPost _ _).runs)) fun _ =>
      .runs ((Runs.ofIdent s (by exact Identity.falls_of_cells rfl fun _ => rfl)).trans (Moves.ofPost _ _).runs)
  · exact .kept

theorem execProtectedFailCompletion_gives (s : State) : Gives none s (execProtectedFailCompletion s) := by
  unfold execProtectedFailCompletion
  split
  · exact .runs ((Runs.ofIdent s).trans (Moves.ofPost _ _).runs)
  · exact .kept

/-! ## Calls -/

theorem execAutoSend_gives (p : Port) (message : Half) (s : State) : Gives (some p) s (execAutoSend p message s) := by
  unfold execAutoSend
  dsimp only
  split
  · exact .refuse
  · exact .ite (fun _ => .refuse) fun _ => .ite (fun _ => .refuse) fun _ =>
      (Gives.begun ((Moves.ofMarks s _ (by exact fun _ => ⟨rfl, rfl, rfl, rfl⟩)).runs.trans
        ((Runs.ofCalls _ _).trans (Moves.ofWruAsk _).runs))).kicked

theorem execSendWru_gives (p : Port) (s : State) : Gives (some p) s (execSendWru p s) :=
  .ite (fun _ => .refuse) fun _ => .ite (fun _ => (Gives.begun (Moves.ofWruAsk s).runs).kicked) fun _ => .refuse

theorem execConfigureAnswering_gives (p : Port) (presence mode identify settle : Byte) (idle mutilation : Half)
    (attempts autoDrain wruResponse : Byte) (s : State) :
    Gives (some p) s (execConfigureAnswering p presence mode identify settle idle mutilation attempts autoDrain wruResponse s) :=
  .ite (fun _ => .refuse) fun _ => .done (.ite ((Runs.ofCalls s _).trans (Runs.ofIdent _)) (Runs.ofCalls s _))

theorem execDrainStart_gives (s : State) : Gives none s (execDrainStart s) := by
  unfold execDrainStart
  split
  · exact .runs (Moves.ofDrainTest s).runs
  · exact .ite (fun _ => .moves ((Runs.ofCalls s _).trans (Moves.ofTold (Moves.ofStart _ _ _ _ _ _ _)).runs)) fun _ => .kept

theorem execIdleTimerExpiry_gives (s : State) : Gives none s (execIdleTimerExpiry s) :=
  .ite (fun _ => .ite (fun _ => .moves ((Moves.ofCloseLine (by decide) s).trans (Moves.ofClearRequest _ _)).runs)
    fun _ => .runs ((Moves.ofPost s _).trans (Moves.ofRestartIdle _)).runs) fun _ => .kept

/-! ## Every command and event -/

/-- STATUS and READ EVENTS alone take from their port's flags and entries. -/
def takesFromPort : Instr → Bool
  | .status _ | .readEvents _ _ => true
  | _ => false

theorem exec_gives (c : Instr) (s : State) (reset : isReset c = false) (takes : takesFromPort c = false) :
    Gives (commandPort c) s (exec c s) := by
  cases c with
  | coldReset | warmReset | restart => cases reset
  | status | readEvents => cases takes
  | malformedRequest p bytes => exact execMalformedRequest_gives p bytes s
  | nop p => exact .done (.refl s)
  | setEventMask p mask => exact execSetEventMask_gives p mask s
  | setClock p seconds => exact .done (Runs.ofStore s (h := fun w => { w with }))
  | configureLine p => exact execConfigureLine_gives p _ _ _ _ _ _ _ _ _ s
  | receiveOn p => exact execReceiveOn_gives p s
  | receiveOff p => exact execReceiveOff_gives p s
  | transmitOn p => exact (Gives.done (Runs.ofPass s)).kicked
  | transmitOff p => exact .done (Runs.ofLine s)
  | readLineQuality p => exact .done (.refl s)
  | route p => exact execRoute_gives p _ _ _ s
  | setTrigger p => exact execSetTrigger_gives p _ _ _ _ s
  | setGating p => exact execSetGating_gives p _ s
  | loadKeymap p => exact execLoadKeymap_gives p _ _ _ s
  | keyboardLock p => exact .done (Runs.ofKb s)
  | keyboardUnlock p => exact .done (Runs.ofKb s)
  | setKeyboardMode p => exact execSetKeyboardMode_gives p _ s
  | configureKeyboard p => exact .done (Runs.ofKb s)
  | create p => exact execCreate_gives p _ s
  | appendText p => exact execAppendText_gives p _ _ s
  | close p => exact execClose_gives p _ s
  | readText p => exact execReadText_gives p _ _ _ s
  | readRecord p => exact execReadRecord_gives p _ _ _ s
  | setDelivery p => exact execSetDelivery_gives p _ _ _ _ _ s
  | delete p => exact execDelete_gives p _ s
  | clearOwed p => exact execClearOwed_gives p _ _ s
  | startChannel p => exact execStartChannel_gives p _ _ _ _ _ s
  | hold p => exact execHold_gives p _ s
  | resume p => exact execResume_gives p _ s
  | stopChannel p => exact execStopChannel_gives p _ s
  | readChannel p => exact execReadChannel_gives p _ s
  | setFormat p => exact execSetFormat_gives p _ _ _ _ _ _ s
  | printerRestart p => exact execPrinterRestart_gives p s
  | printOwed p => exact .done (.ite (.refl s) (Runs.ofCalls s _))
  | punchFeed p => exact execPunchFeed_gives p _ s
  | punchOn p => exact (Gives.done (Runs.ofPunchClear _ s)).kicked
  | punchOff p => exact (Gives.done (Runs.ofPunchSet _ s)).kicked
  | punchResume p => exact execPunchResume_gives p s
  | configurePunch p => exact execConfigurePunch_gives p _ _ _ s
  | readSlot p => exact execReadSlot_gives p _ s
  | programSlot p => exact execProgramSlot_gives p _ _ _ _ s
  | commitSlot p => exact execCommitSlot_gives p _ _ _ s
  | protect p => exact execProtect_gives p _ s
  | callIn p => exact .ite (fun _ => (Gives.done (Runs.ofCallInStart s)).kicked) fun _ => .refuse
  | callOut p => exact .ite (fun _ => (Gives.done (Runs.ofCallOutStart s)).kicked) fun _ => .refuse
  | callCleared p => exact .ite (fun _ => .done (.refl s)) fun _ => (Gives.done (Runs.ofCallEnd _ s)).kicked
  | autoSend p => exact execAutoSend_gives p _ s
  | sendAnswerBack p => exact (Gives.done (Moves.ofAnswerBack s).runs).kicked
  | sendWru p => exact execSendWru_gives p s
  | configureAnswering p => exact execConfigureAnswering_gives p _ _ _ _ _ _ _ _ _ s
  | startEdge => exact execStartEdge_gives s
  | stopSample => exact execStopSample_gives s
  | markReturn => exact execMarkReturn_gives s
  | lineBreak => exact .ite (fun _ => .moves (Runs.ofDeclareBreak s)) fun _ => .kept
  | lineRate => exact execLineRate_gives s
  | characterEnd => exact .ite (fun _ => .runs (Moves.ofCharEnd s).runs) fun _ => .kept
  | releaseIntervalExpiry => exact execReleaseIntervalExpiry_gives s
  | keyScan seen => exact execKeyScan_gives seen s
  | keyboardDelivery => exact execKeyboardDelivery_gives s
  | channelDelivery c => exact execChannelDelivery_gives c s
  | printCompletion => exact execPrintCompletion_gives s
  | carriageHome => exact .runs (Runs.ofPrinter s (by rw [Printer.fixTarget_queue]))
  | carriageJam => exact execCarriageJam_gives s
  | paperOut => exact execPaperOut_gives s
  | paperPresent => exact execPaperPresent_gives s
  | bellExpiry => exact .runs (Runs.ofPrinter s)
  | punchRowCompletion => exact execPunchRowCompletion_gives s
  | punchTapeOut => exact .ite (fun _ => .runs (Runs.ofTapeRunsOut s)) fun _ => .kept
  | tapeLow => exact execTapeLow_gives s
  | tapePresent => exact .runs (Runs.ofPunch s)
  | punchSwitchOff => exact .moves (Runs.ofPunchSet _ s)
  | punchSwitchOn => exact .moves (Runs.ofPunchClear _ s)
  | scrub => exact execScrub_gives s
  | secondsTick => exact .runs (Runs.ofStore s (h := fun w => { w with }))
  | programCompletion => exact execProgramCompletion_gives s
  | commitCellWrite => exact execCommitCellWrite_gives s
  | protectCompletion => exact execProtectCompletion_gives s
  | protectedFailCompletion => exact execProtectedFailCompletion_gives s
  | settleExpiry => exact .ite (fun _ => .moves (Runs.ofSettleDone s)) fun _ => .kept
  | captureStartExpiry => exact .ite (fun _ => .moves (Moves.ofCaptureEnd s).runs) fun _ => .kept
  | captureGapExpiry => exact .ite (fun _ => .moves (Moves.ofCaptureEnd s).runs) fun _ => .kept
  | idleTimerExpiry => exact execIdleTimerExpiry_gives s
  | breakGuardExpiry => exact .ite (fun _ => .runs (Runs.ofSelfClear _ s)) fun _ => .kept
  | clearingGuardExpiry => exact .ite (fun _ => .runs (Runs.ofSelfClear _ s)) fun _ => .kept
  | drainStart => exact execDrainStart_gives s
  | startCheck => exact execStartCheck_gives s
  | unitSample => exact .ite (fun _ => .runs (Runs.ofLine s)) fun _ => .kept
  | timedTransition slot => exact execTimedTransition_gives slot s

end Sys2Proof.Machine
end

section
-- One proof is elaborated at a time: the threads of many at once do not fit the memory a check allows.
set_option Elab.async false

/-! SUPPORT. The invariants that every step keeps, and what no command touches: from what each command keeps, with the two commands
that take from their port and the three resets beside it. -/

namespace Sys2Proof.Machine

/-! ## STATUS and READ EVENTS -/

theorem exec_status (p : Port) (s : State) : exec (.status p) s = .next (s.setPort p { s.port p with
    flags := .clear, holder := some ⟨0x02, .done, none, statusBytes p s⟩ }) := by
  cases p <;> rfl

theorem exec_readEvents_some {p : Port} {count : Byte} (s : State) (h : 1 ≤ count.toNat ∧ count.toNat ≤ 4) :
    exec (.readEvents p count) s = .next (s.setPort p { s.port p with
      queue := (s.port p).queue.drop count.toNat
      holder := some ⟨0x03, .done, none, byteOf ((s.port p).queue.drop count.toNat).length
        :: ((s.port p).queue.take count.toNat).flatMap Event.bytes⟩ }) := by
  change execReadEvents p count s = _
  rw [execReadEvents, if_pos h]
  cases p <;> rfl

theorem exec_readEvents_none {p : Port} {count : Byte} (s : State) (h : ¬ (1 ≤ count.toNat ∧ count.toNat ≤ 4)) :
    exec (.readEvents p count) s = .next (s.refuse p 0x03 .range) := by
  change execReadEvents p count s = _
  rw [execReadEvents, if_neg h]

/-- STATUS and READ EVENTS change their own port alone, and neither lengthens its queue. -/
theorem exec_takes {c : Instr} (s : State) (h : takesFromPort c = true) : ∃ p v, commandPort c = some p
    ∧ exec c s = .next (s.setPort p v) ∧ v.queue.length ≤ (s.port p).queue.length
    ∧ ((∀ n, c ≠ .readEvents p n) → v.queue = (s.port p).queue) ∧ (c ≠ .status p → v.flags = (s.port p).flags) := by
  cases c with
  | status p => exact ⟨p, _, rfl, exec_status p s, Nat.le_refl _, fun _ => rfl, fun ne => absurd rfl ne⟩
  | readEvents p count =>
    by_cases some : 1 ≤ count.toNat ∧ count.toNat ≤ 4
    · exact ⟨p, _, rfl, exec_readEvents_some s some, by simp, fun ne => absurd rfl (ne count), fun _ => rfl⟩
    · exact ⟨p, _, rfl, exec_readEvents_none s some, Nat.le_refl _, fun ne => absurd rfl (ne count), fun _ => rfl⟩
  | _ => cases h

theorem State.setPort_bounded {s : State} (b : s.Bounded) {p : Port} {v : PortState}
    (h : v.queue.length ≤ (s.port p).queue.length) : (s.setPort p v).Bounded := by
  cases p with
  | s => exact { b with sEvents := h.trans b.sEvents }
  | x => exact { b with xEvents := h.trans b.xEvents }

/-! ## Resets -/

theorem Runs.ofResetEnd (s : State) : Runs s (resetEnd s) := (Runs.ofLoadLatch s).trans (Moves.ofPostAll _ _).runs

/-- A reset is the values of the reset tables, over a store after a cold or a warm reset, and then the events of its end. -/
theorem exec_reset {c : Instr} (h : isReset c = true) (s : State) : ∃ t u, exec c s = .next u ∧ (t = .afterCold ∨ t = s.store.afterWarm)
    ∧ Runs (State.afterReset t s) u := by
  cases c with
  | coldReset => exact ⟨_, _, rfl, .inl rfl, Runs.ofResetEnd _⟩
  | warmReset => exact ⟨_, _, rfl, .inr rfl, (Moves.ofPost _ _).runs.trans (Runs.ofResetEnd _)⟩
  | restart p => exact ⟨_, _, rfl, .inr rfl, (Moves.ofPost _ _).runs.trans (Runs.ofResetEnd _)⟩
  | _ => cases h

theorem Store.afterCold_sound : Store.afterCold.Sound where
  blocks := by
    have size : Config.blocks = 512 := rfl
    simp only [Store.afterCold, blocksOf, List.flatMap_nil, List.append_nil, size, List.Perm.refl]
  distinct := List.nodup_nil
  numbers := fun _ h => nomatch h
  counter := by decide
  room := Nat.zero_le _
  canonical := rfl
  within := fun _ h => nomatch h

theorem Store.afterCold_slots : Store.afterCold.SlotsAgree where
  slots := fun h n => by rcases h with _ | _ | (_ | _) <;> exact ⟨fun e => (nomatch e), fun ⟨_, inside, _⟩ => nomatch inside⟩
  holders := fun _ h => nomatch h
  distinct := List.nodup_nil

theorem Store.afterWarm_sound {t : Store} (w : t.Sound) : t.afterWarm.Sound :=
  have mapped := Store.sound_map w (g := Record.afterWarm t.clock) fun _ _ => ⟨rfl, rfl⟩
  { mapped with }

theorem Record.afterWarm_closed (clock : Word) (r : Record) :
    (r.afterWarm clock).state ≠ .opened ∧ (r.afterWarm clock).holder = none := by
  refine ⟨?_, rfl⟩
  simp only [Record.afterWarm]
  split_ifs with h
  · decide
  · exact h

theorem Store.afterWarm_slots {t : Store} (w : t.Sound) : t.afterWarm.SlotsAgree where
  slots := fun h n => by
    have empty : t.afterWarm.slot h = none := by rcases h with _ | _ | (_ | _) <;> rfl
    rw [empty]
    refine ⟨fun e => (nomatch e), fun ⟨q, inside, _, opened, _⟩ => ?_⟩
    obtain ⟨r, _, rfl⟩ := List.mem_map.mp inside
    exact absurd opened (r.afterWarm_closed _).1
  holders := fun q inside => by
    obtain ⟨r, _, rfl⟩ := List.mem_map.mp inside
    exact ⟨fun opened => absurd opened (r.afterWarm_closed _).1, fun held => absurd (r.afterWarm_closed _).2 held⟩
  distinct := (Store.afterWarm_sound w).distinct

theorem State.afterReset_bounded (t : Store) {s : State} (h : s.ident.slots.length = 8) : (State.afterReset t s).Bounded where
  sEvents := Nat.zero_le _
  xEvents := Nat.zero_le _
  print := Nat.zero_le _
  punch := Nat.zero_le _
  typeahead := Nat.zero_le _
  keys := List.length_replicate
  plane0 := show builtInPlane0.length = 64 by decide
  plane1 := show builtInPlane1.length = 64 by decide
  triggers := rfl
  history := Nat.zero_le _
  slots := (Identity.cut_falls _ _).1.trans h
  arbiter := ⟨List.nodup_nil, fun _ e => nomatch e⟩
  quality := ⟨Nat.zero_le _, Nat.zero_le _, Nat.zero_le _, Nat.zero_le _, Nat.zero_le _, Nat.zero_le _⟩

/-! ## Every step -/

/-- What every step keeps: a reset too, and the commands that take from their port. -/
structure Lasts (s t : State) : Prop where
  sound : s.store.Sound → t.store.Sound
  slots : s.store.Sound → s.store.SlotsAgree → t.store.SlotsAgree
  bounded : s.Bounded → t.Bounded
  falls : s.ident.Falls t.ident
  pending : t.pending = s.pending

theorem exec_lasts {c : Instr} {s t : State} (h : exec c s = .next t) : Lasts s t := by
  cases reset : isReset c with
  | true =>
    obtain ⟨u, t', e, kind, runs⟩ := exec_reset reset s
    cases e.symm.trans h
    refine ⟨fun w => runs.sound ?_, fun w _ => runs.slots ?_ ?_, fun b => runs.bounded (State.afterReset_bounded u b.slots),
      Identity.falls_trans (Identity.cut_falls _ _) runs.falls, runs.pending⟩
    · rcases kind with rfl | rfl
      · exact Store.afterCold_sound
      · exact Store.afterWarm_sound w
    · rcases kind with rfl | rfl
      · exact Store.afterCold_sound
      · exact Store.afterWarm_sound w
    · rcases kind with rfl | rfl
      · exact Store.afterCold_slots
      · exact Store.afterWarm_slots w
  | false =>
    cases takes : takesFromPort c with
    | true =>
      obtain ⟨p, v, _, e, shorter, _⟩ := exec_takes s takes
      cases e.symm.trans h
      refine ⟨?_, ?_, fun b => State.setPort_bounded b shorter, ?_, State.setPort_pending s p v⟩
      · rw [State.setPort_store]; exact id
      · rw [State.setPort_store]; exact fun _ => id
      · rw [State.setPort_ident]; exact s.ident.falls_refl
    | false =>
      obtain ⟨t', e, acts⟩ := exec_gives c s reset takes
      cases e.symm.trans h
      exact ⟨acts.sound, acts.slots, acts.bounded, acts.falls, acts.pending⟩

/-- A step runs a command on the state with the queue's rest, or idles. -/
theorem step_lasts {s t : State} (h : step s = .next t) : (s.store.Sound → t.store.Sound)
    ∧ (s.store.Sound → s.store.SlotsAgree → t.store.SlotsAgree) ∧ (s.Bounded → t.Bounded) ∧ s.ident.Falls t.ident := by
  unfold step at h
  split at h
  · cases h
    exact ⟨id, fun _ => id, id, s.ident.falls_refl⟩
  · next c rest _ =>
    obtain ⟨sound, slots, bounded, falls, _⟩ := exec_lasts h
    exact ⟨sound, slots, fun b => bounded { b with }, falls⟩

/-- Settles O12: a block moves from the free queue to a chain, and from a chain to the free queue or the retired set. -/
theorem storeStaysSound : Obligations.StoreStaysSound := fun _ _ sound h => (step_lasts h).1 sound

/-- Settles O13. -/
theorem openSlotsStayInAgreement : Obligations.OpenSlotsStayInAgreement := fun _ _ sound slots h => (step_lasts h).2.1 sound slots

/-- Settles O14. -/
theorem queuesStayBounded : Obligations.QueuesStayBounded := fun _ _ bounded h => (step_lasts h).2.2.1 bounded

/-- Settles O15: every write to a cell goes through otpWrite or sets a mark. -/
theorem identityCellsOnlyFall : Obligations.IdentityCellsOnlyFall := fun _ _ h => (step_lasts h).2.2.2

/-- Settles O2. -/
theorem commandsLeaveTheQueue : Obligations.CommandsLeaveTheQueue := fun _ _ _ h => (exec_lasts h).pending

/-- Settles O16: what each command keeps says it, but for STATUS and READ EVENTS, which change their own port alone. -/
theorem portsOnlyGrow : Obligations.PortsOnlyGrow := by
  intro c s t q reset h
  cases takes : takesFromPort c with
  | false =>
    obtain ⟨t', e, acts⟩ := exec_gives c s reset takes
    cases e.symm.trans h
    exact ⟨acts.grows q, fun _ => acts.entries q, fun _ => acts.flags q⟩
  | true =>
    obtain ⟨p, v, port, e, _, entries, flags⟩ := exec_takes s takes
    cases e.symm.trans h
    by_cases own : q = p
    · subst own
      rw [State.setPort_port]
      exact ⟨fun other => absurd port other, fun ne => entries ne ▸ List.prefix_rfl, fun ne => flags ne ▸ Flags.le_refl _⟩
    · rw [State.setPort_port_ne s p q v own]
      exact ⟨fun _ => PortState.grows_refl _, fun _ => List.prefix_rfl, fun _ => Flags.le_refl _⟩

/-- Settles O1. -/
theorem stepRunsTheFrontCommand : Obligations.StepRunsTheFrontCommand := by
  intro s
  refine ⟨fun c rest e => ?_, fun e => ?_⟩ <;> rw [step, e]

/-- Settles O11: the state after reset is a cold reset's, whose store is sound, over new identity cells. -/
theorem resetIsSound : Obligations.ResetIsSound :=
  ⟨Store.afterCold_sound, Store.afterCold_slots, { State.afterReset_bounded .afterCold (s := .reset) rfl with slots := rfl },
    rfl, rfl, rfl, rfl⟩

end Sys2Proof.Machine
end

section
-- One proof is elaborated at a time: the threads of many at once do not fit the memory a check allows.
set_option Elab.async false

/-! SUPPORT. Requests and ports (chapter 11): what the parsers of the command code table take, the request of each command, the lines
of a port bit by bit, and the commands of the ports themselves. -/

namespace Sys2Proof

open BitVec (extractLsb'_append_eq_of_le extractLsb'_append_eq_of_add_le extractLsb'_append_eq_left extractLsb'_append_eq_right
  extractLsb'_append_extractLsb'_eq_extractLsb' extractLsb'_eq_self)

/-! ## Numbers of several bytes (R192, R194) -/

theorem half_halfBytes (h : Half) : half (h.extractLsb' 8 8) (h.extractLsb' 0 8) = h :=
  (extractLsb'_append_extractLsb'_eq_extractLsb' (x := h) rfl).trans extractLsb'_eq_self

theorem halfBytes_half (hi lo : Byte) : halfBytes (half hi lo) = [hi, lo] := by
  have high : (half hi lo).extractLsb' 8 8 = hi := extractLsb'_append_eq_left
  have low : (half hi lo).extractLsb' 0 8 = lo := extractLsb'_append_eq_right
  rw [halfBytes, high, low]

theorem append_wordBytes (w : Word) : w.extractLsb' 24 8 ++ w.extractLsb' 16 8 ++ w.extractLsb' 8 8 ++ w.extractLsb' 0 8 = w := by
  have join (hi lo len : Nat) (h : hi = lo + 8) := extractLsb'_append_extractLsb'_eq_extractLsb' (x := w) (len₂ := len) h
  rw [join 24 16 8 rfl, join 16 8 (8 + 8) rfl, join 8 0 (8 + 8 + 8) rfl]
  exact extractLsb'_eq_self

theorem wordBytes_append (a b c d : Byte) : wordBytes (a ++ b ++ c ++ d) = [a, b, c, d] := by
  have high : (a ++ b ++ c ++ d).extractLsb' 24 8 = a := by
    rw [extractLsb'_append_eq_of_le (by decide), extractLsb'_append_eq_of_le (by decide)]
    exact extractLsb'_append_eq_left
  have second : (a ++ b ++ c ++ d).extractLsb' 16 8 = b := by
    rw [extractLsb'_append_eq_of_le (by decide), extractLsb'_append_eq_of_le (by decide)]
    exact extractLsb'_append_eq_right
  have third : (a ++ b ++ c ++ d).extractLsb' 8 8 = c := by
    rw [extractLsb'_append_eq_of_le (by decide)]
    exact extractLsb'_append_eq_right
  have low : (a ++ b ++ c ++ d).extractLsb' 0 8 = d := extractLsb'_append_eq_right
  rw [wordBytes, high, second, third, low]

theorem append_eventMaskBytes (m : BitVec 48) : m.extractLsb' 40 8 ++ m.extractLsb' 32 8 ++ m.extractLsb' 24 8 ++ m.extractLsb' 16 8
    ++ m.extractLsb' 8 8 ++ m.extractLsb' 0 8 = m := by
  have join (hi lo len : Nat) (h : hi = lo + 8) := extractLsb'_append_extractLsb'_eq_extractLsb' (x := m) (len₂ := len) h
  rw [join 40 32 8 rfl, join 32 24 (8 + 8) rfl, join 24 16 (8 + 8 + 8) rfl, join 16 8 (8 + 8 + 8 + 8) rfl,
    join 8 0 (8 + 8 + 8 + 8 + 8) rfl]
  exact extractLsb'_eq_self

theorem eventMaskBytes_append (a b c d e f : Byte) : eventMaskBytes (f ++ e ++ d ++ c ++ b ++ a) = [a, b, c, d, e, f] := by
  have b0 : (f ++ e ++ d ++ c ++ b ++ a).extractLsb' 0 8 = a := extractLsb'_append_eq_right
  have b1 : (f ++ e ++ d ++ c ++ b ++ a).extractLsb' 8 8 = b := by
    rw [extractLsb'_append_eq_of_le (by decide)]
    exact extractLsb'_append_eq_right
  have b2 : (f ++ e ++ d ++ c ++ b ++ a).extractLsb' 16 8 = c := by
    rw [extractLsb'_append_eq_of_le (by decide), extractLsb'_append_eq_of_le (by decide)]
    exact extractLsb'_append_eq_right
  have b3 : (f ++ e ++ d ++ c ++ b ++ a).extractLsb' 24 8 = d := by
    rw [extractLsb'_append_eq_of_le (by decide), extractLsb'_append_eq_of_le (by decide), extractLsb'_append_eq_of_le (by decide)]
    exact extractLsb'_append_eq_right
  have b4 : (f ++ e ++ d ++ c ++ b ++ a).extractLsb' 32 8 = e := by
    rw [extractLsb'_append_eq_of_le (by decide), extractLsb'_append_eq_of_le (by decide), extractLsb'_append_eq_of_le (by decide),
      extractLsb'_append_eq_of_le (by decide)]
    exact extractLsb'_append_eq_right
  have b5 : (f ++ e ++ d ++ c ++ b ++ a).extractLsb' 40 8 = f := by
    rw [extractLsb'_append_eq_of_le (by decide), extractLsb'_append_eq_of_le (by decide), extractLsb'_append_eq_of_le (by decide),
      extractLsb'_append_eq_of_le (by decide)]
    exact extractLsb'_append_eq_left
  rw [eventMaskBytes, b0, b1, b2, b3, b4, b5]

theorem pairUp_unpair (es : List (Byte × Byte)) : pairUp (unpair es) = some es := by
  induction es with
  | nil => rfl
  | cons e es ih =>
    change (pairUp (unpair es)).map _ = _
    rw [ih]
    rfl

theorem unpair_pairUp : ∀ {bytes : List Byte} {es : List (Byte × Byte)}, pairUp bytes = some es → unpair es = bytes
  | [], _, h => by cases h; rfl
  | [_], _, h => by cases h
  | a :: b :: rest, _, h => by
    obtain ⟨es, hes, rfl⟩ := Option.map_eq_some_iff.mp h
    change a :: b :: unpair es = _
    rw [unpair_pairUp hes]

theorem length_unpair (es : List (Byte × Byte)) : (unpair es).length = 2 * es.length := by
  induction es with
  | nil => rfl
  | cons e es ih =>
    change (unpair es).length + 2 = 2 * (es.length + 1)
    omega

/-! ## What is written reads back -/

/-- A code and its argument bytes read as a command at a port. -/
structure Reads (p : Port) (rd : Readings) (code : Byte) (args : List Byte) (i : Instr) : Prop where
  port : Machine.commandPort i = some p ∨ i = .restart p
  bytes : requestBytes i = some (code :: BitVec.ofNat 8 args.length :: args)
  fits : args.length ≤ 255
  parse : parseArgs p rd code args = some i

theorem parseDelivery_runs (p : Port) (m : Half) (pr opt : Byte) {ident dest : List Byte} (h : ident.length + dest.length ≤ 36) :
    parseDelivery p (halfBytes m ++ [pr, opt] ++ countedRun ident ++ countedRun dest) = some (.setDelivery p m pr opt ident dest) := by
  have ni : (BitVec.ofNat 8 ident.length).toNat = ident.length := by rw [BitVec.toNat_ofNat]; omega
  have nd : (BitVec.ofNat 8 dest.length).toNat = dest.length := by rw [BitVec.toNat_ofNat]; omega
  simp only [halfBytes, countedRun, List.cons_append, List.nil_append, parseDelivery, ni, List.drop_left, List.take_left, nd,
    List.length_cons, List.length_append, half_halfBytes]
  rw [if_pos ⟨by omega, trivial⟩]

/-- Every well-formed port command has a request, which reads as that command. -/
theorem reads_of_requestBytes {i : Instr} {bytes : List Byte} (wf : i.wellFormed = true) (h : requestBytes i = some bytes) :
    ∃ p rd code args, Reads p rd code args i := by
  cases i with
  | nop p | status p | restart p | receiveOn p | receiveOff p | transmitOn p | transmitOff p | readLineQuality p | keyboardLock p
  | keyboardUnlock p | printerRestart p | printOwed p | punchOn p | punchOff p | punchResume p | callIn p | callOut p | callCleared p
  | sendAnswerBack p | sendWru p => exact ⟨p, ⟨0, false⟩, _, _, by simp [Machine.commandPort], rfl, by simp, rfl⟩
  | readEvents p | setGating p | setKeyboardMode p | configureKeyboard p | create p | hold p | resume p | stopChannel p
  | readChannel p | readSlot p | route p | setFormat p => exact ⟨p, ⟨0, false⟩, _, _, .inl rfl, rfl, by simp, rfl⟩
  | close p m | delete p m | autoSend p m | punchFeed p m =>
    exact ⟨p, ⟨0, false⟩, _, _, .inl rfl, rfl, by simp [halfBytes], by
      simp only [halfBytes, parseArgs, parseHalf, half_halfBytes]; rfl⟩
  | setEventMask p m =>
    exact ⟨p, ⟨0, false⟩, _, _, .inl rfl, rfl, by simp [eventMaskBytes], by
      simp only [eventMaskBytes, parseArgs, parseMask, append_eventMaskBytes]; rfl⟩
  | setClock p w =>
    exact ⟨p, ⟨0, false⟩, _, _, .inl rfl, rfl, by simp [wordBytes], by
      simp only [wordBytes, parseArgs, parseClock, append_wordBytes]; rfl⟩
  | configureLine p pr rate stop brk thr tx rx rel ms =>
    exact ⟨p, ⟨ms, false⟩, _, _, .inl rfl, rfl, by simp [halfBytes], by
      simp only [halfBytes, List.cons_append, List.nil_append, parseArgs, parseLine, half_halfBytes]; rfl⟩
  | setTrigger p e en a pattern =>
    have short : pattern.length ≤ 8 := by simpa [Instr.wellFormed] using wf
    exact ⟨p, ⟨0, false⟩, _, _, .inl rfl, rfl, by simp only [List.length_cons]; omega, if_pos short⟩
  | loadKeymap p plane first entries =>
    have size : 1 ≤ entries.length ∧ entries.length ≤ 32 := by simpa [Instr.wellFormed] using wf
    refine ⟨p, ⟨0, false⟩, _, _, .inl rfl, rfl, by simp only [List.length_cons, length_unpair]; omega, ?_⟩
    change parseKeymap p (plane :: first :: unpair entries) = _
    simp only [parseKeymap, pairUp_unpair, if_pos size]
  | appendText p m text =>
    have size : 1 ≤ text.length ∧ text.length ≤ 32 := by simpa [Instr.wellFormed] using wf
    refine ⟨p, ⟨0, false⟩, _, _, .inl rfl, rfl, by simp [halfBytes]; omega, ?_⟩
    change parseAppend p (halfBytes m ++ text) = _
    simp only [halfBytes, List.cons_append, List.nil_append, parseAppend, half_halfBytes, if_pos size]
  | readText p m first n =>
    exact ⟨p, ⟨0, false⟩, _, _, .inl rfl, rfl, by simp [halfBytes], by
      simp only [halfBytes, List.cons_append, List.nil_append, parseArgs, parseReadText, half_halfBytes]; rfl⟩
  | readRecord p sel v c =>
    exact ⟨p, ⟨0, false⟩, _, _, .inl rfl, rfl, by simp [halfBytes], by
      simp only [halfBytes, List.cons_append, List.nil_append, parseArgs, parseReadRecord, half_halfBytes]; rfl⟩
  | setDelivery p m pr opt ident dest =>
    have size : ident.length + dest.length ≤ 36 := by simpa [Instr.wellFormed] using wf
    exact ⟨p, ⟨0, false⟩, _, _, .inl rfl, rfl, by simp [halfBytes, countedRun]; omega, parseDelivery_runs p m pr opt size⟩
  | clearOwed p m f =>
    exact ⟨p, ⟨0, false⟩, _, _, .inl rfl, rfl, by simp [halfBytes], by
      simp only [halfBytes, List.cons_append, List.nil_append, parseArgs, parseOwed, half_halfBytes]; rfl⟩
  | startChannel p c m q k t =>
    exact ⟨p, ⟨0, false⟩, _, _, .inl rfl, rfl, by simp [halfBytes], by
      simp only [halfBytes, List.cons_append, List.nil_append, parseArgs, parseStart, half_halfBytes]; rfl⟩
  | configurePunch p pr a c =>
    exact ⟨p, ⟨0, false⟩, _, _, .inl rfl, rfl, by simp [halfBytes], by
      simp only [halfBytes, List.cons_append, List.nil_append, parseArgs, parsePunch, half_halfBytes]; rfl⟩
  | programSlot p we slot first text =>
    have size : 1 ≤ text.length ∧ text.length ≤ 20 := by simpa [Instr.wellFormed] using wf
    exact ⟨p, ⟨0, we⟩, _, _, .inl rfl, rfl, by simp only [List.length_cons]; omega, if_pos size⟩
  | commitSlot p we => exact ⟨p, ⟨0, we⟩, _, _, .inl rfl, rfl, by simp, rfl⟩
  | protect p we => exact ⟨p, ⟨0, we⟩, _, _, .inl rfl, rfl, by simp, rfl⟩
  | configureAnswering p pr mode ident settle idle mutil att drain wru =>
    exact ⟨p, ⟨0, false⟩, _, _, .inl rfl, rfl, by simp [halfBytes], by
      simp only [halfBytes, List.cons_append, List.nil_append, parseArgs, parseAnswering, half_halfBytes]; rfl⟩
  | _ => cases h

/-- A transaction carries the request that its first bytes spell, whatever is clocked in after it (R182). -/
theorem Reads.framed {p : Port} {rd : Readings} {code : Byte} {args : List Byte} {i : Instr} (h : Reads p rd code args i)
    (padding : List Byte) : frameRequest p rd (code :: BitVec.ofNat 8 args.length :: args ++ padding) = .command i := by
  have size : (BitVec.ofNat 8 args.length).toNat = args.length := by
    have := h.fits
    rw [BitVec.toNat_ofNat]
    omega
  simp only [List.cons_append, frameRequest, size, List.length_append, List.take_left, h.parse]
  rw [if_neg (by omega)]

/-! ## What is read was written -/

/-- Argument bytes that make a command are those of its request, and the command is well formed and of that port. -/
structure Wrote (p : Port) (code : Byte) (args : List Byte) (i : Instr) : Prop where
  wf : i.wellFormed = true
  port : Machine.commandPort i = some p ∨ i = .restart p
  bytes : requestBytes i = some (code :: BitVec.ofNat 8 args.length :: args)

theorem parse0_some {i j : Instr} {args : List Byte} (h : parse0 i args = some j) : args = [] ∧ j = i := by
  unfold parse0 at h
  split at h
  · cases h; exact ⟨rfl, rfl⟩
  · cases h

theorem parse1_some {f : Byte → Instr} {j : Instr} {args : List Byte} (h : parse1 f args = some j) : ∃ a, args = [a] ∧ j = f a := by
  unfold parse1 at h
  split at h
  · cases h; exact ⟨_, rfl, rfl⟩
  · cases h

theorem parseHalf_some {f : Half → Instr} {j : Instr} {args : List Byte} (h : parseHalf f args = some j) :
    ∃ m, args = halfBytes m ∧ j = f m := by
  unfold parseHalf at h
  split at h
  · cases h; exact ⟨_, (halfBytes_half _ _).symm, rfl⟩
  · cases h

theorem wrote_of_parse0 {p : Port} {code : Byte} {args : List Byte} {i j : Instr} (h : parse0 i args = some j)
    (w : Wrote p code [] i) : Wrote p code args j := by
  obtain ⟨rfl, rfl⟩ := parse0_some h
  exact w

theorem wrote_of_parse1 {p : Port} {code : Byte} {args : List Byte} {f : Byte → Instr} {j : Instr} (h : parse1 f args = some j)
    (w : ∀ a, Wrote p code [a] (f a)) : Wrote p code args j := by
  obtain ⟨a, rfl, rfl⟩ := parse1_some h
  exact w a

theorem wrote_of_parseHalf {p : Port} {code : Byte} {args : List Byte} {f : Half → Instr} {j : Instr}
    (h : parseHalf f args = some j) (w : ∀ m, Wrote p code (halfBytes m) (f m)) : Wrote p code args j := by
  obtain ⟨m, rfl, rfl⟩ := parseHalf_some h
  exact w m

theorem wrote_of_parseDelivery {p : Port} {args : List Byte} {j : Instr} (h : parseDelivery p args = some j) : Wrote p 0x35 args j := by
  unfold parseDelivery at h
  split at h
  · next hi lo pr opt n rest =>
    split at h
    · next m dest dropped =>
      split_ifs at h with size
      cases h
      have long : n.toNat < rest.length := by
        by_contra short
        rw [List.drop_eq_nil_of_le (Nat.le_of_not_lt short)] at dropped
        cases dropped
      have parted : rest = rest.take n.toNat ++ m :: dest := by rw [← dropped, List.take_append_drop]
      have taken : (rest.take n.toNat).length = n.toNat := by rw [List.length_take]; omega
      have nb : BitVec.ofNat 8 n.toNat = n := by simp
      have mb : BitVec.ofNat 8 dest.length = m := by rw [size.2]; simp
      refine ⟨?_, .inl rfl, ?_⟩
      · have whole : rest.length = (rest.take n.toNat).length + (dest.length + 1) := by
          conv_lhs => rw [parted]
          simp
        simp only [Instr.wellFormed, decide_eq_true_eq]
        simp only [List.length_cons] at size
        omega
      · simp only [requestBytes, frame, countedRun, taken, nb, mb, halfBytes_half, List.cons_append, List.nil_append, ← parted]
    · cases h
  · cases h

/-- The command code table read the other way: a code and bytes that make a command are its request (R190, R192). -/
theorem wrote_of_parseArgs {p : Port} {rd : Readings} {code : Byte} {args : List Byte} {i : Instr}
    (h : parseArgs p rd code args = some i) : Wrote p code args i := by
  have number (n : Nat) (e : code.toNat = n) : code = BitVec.ofNat 8 n := by rw [← e]; simp
  unfold parseArgs at h
  split at h
  case h_1 e | h_2 e | h_5 e | h_8 e | h_9 e | h_10 e | h_11 e | h_12 e | h_17 e | h_18 e | h_35 e | h_36 e | h_38 e | h_39 e | h_40 e | h_45 e | h_46 e | h_47 e | h_48 e | h_50 e | h_51 e =>
    cases number _ e
    exact wrote_of_parse0 h ⟨rfl, by simp [Machine.commandPort], rfl⟩
  case h_3 e | h_15 e | h_19 e | h_20 e | h_21 e | h_30 e | h_31 e | h_32 e | h_33 e | h_42 e =>
    cases number _ e
    exact wrote_of_parse1 h fun _ => ⟨rfl, .inl rfl, rfl⟩
  case h_23 e | h_27 e | h_37 e | h_49 e =>
    cases number _ e
    exact wrote_of_parseHalf h fun _ => ⟨rfl, .inl rfl, rfl⟩
  case h_4 e =>
    cases number _ e
    unfold parseMask at h
    split at h
    · cases h; exact ⟨rfl, .inl rfl, by rw [requestBytes, eventMaskBytes_append]; rfl⟩
    · cases h
  case h_6 e =>
    cases number _ e
    unfold parseClock at h
    split at h
    · cases h; exact ⟨rfl, .inl rfl, by rw [requestBytes, wordBytes_append]; rfl⟩
    · cases h
  case h_7 e =>
    cases number _ e
    unfold parseLine at h
    split at h
    · cases h; exact ⟨rfl, .inl rfl, by rw [requestBytes, halfBytes_half]; rfl⟩
    · cases h
  case h_13 e =>
    cases number _ e
    unfold parseRoute at h
    split at h
    · cases h; exact ⟨rfl, .inl rfl, rfl⟩
    · cases h
  case h_14 e =>
    cases number _ e
    unfold parseTrigger at h
    split at h
    · split_ifs at h with short
      cases h
      exact ⟨decide_eq_true short, .inl rfl, rfl⟩
    · cases h
  case h_16 e =>
    cases number _ e
    unfold parseKeymap at h
    split at h
    · split at h
      · next pairs =>
        split_ifs at h with size
        cases h
        exact ⟨by simpa [Instr.wellFormed] using size, .inl rfl, by rw [requestBytes, unpair_pairUp pairs]; rfl⟩
      · cases h
    · cases h
  case h_22 e =>
    cases number _ e
    unfold parseAppend at h
    split at h
    · split_ifs at h with size
      cases h
      exact ⟨by simpa [Instr.wellFormed] using size, .inl rfl, by rw [requestBytes, halfBytes_half]; rfl⟩
    · cases h
  case h_24 e =>
    cases number _ e
    unfold parseReadText at h
    split at h
    · cases h; exact ⟨rfl, .inl rfl, by rw [requestBytes, halfBytes_half, halfBytes_half]; rfl⟩
    · cases h
  case h_25 e =>
    cases number _ e
    unfold parseReadRecord at h
    split at h
    · cases h; exact ⟨rfl, .inl rfl, by rw [requestBytes, halfBytes_half]; rfl⟩
    · cases h
  case h_26 e =>
    cases number _ e
    exact wrote_of_parseDelivery h
  case h_28 e =>
    cases number _ e
    unfold parseOwed at h
    split at h
    · cases h; exact ⟨rfl, .inl rfl, by rw [requestBytes, halfBytes_half]; rfl⟩
    · cases h
  case h_29 e =>
    cases number _ e
    unfold parseStart at h
    split at h
    · cases h; exact ⟨rfl, .inl rfl, by rw [requestBytes, halfBytes_half, halfBytes_half]; rfl⟩
    · cases h
  case h_34 e =>
    cases number _ e
    unfold parseFormat at h
    split at h
    · cases h; exact ⟨rfl, .inl rfl, rfl⟩
    · cases h
  case h_41 e =>
    cases number _ e
    unfold parsePunch at h
    split at h
    · cases h; exact ⟨rfl, .inl rfl, by rw [requestBytes, halfBytes_half]; rfl⟩
    · cases h
  case h_43 e =>
    cases number _ e
    unfold parseProgram at h
    split at h
    · split_ifs at h with size
      cases h
      exact ⟨by simpa [Instr.wellFormed] using size, .inl rfl, rfl⟩
    · cases h
  case h_44 e =>
    cases number _ e
    unfold parseCommit at h
    split at h
    · cases h; exact ⟨rfl, .inl rfl, rfl⟩
    · cases h
  case h_52 e =>
    cases number _ e
    unfold parseAnswering at h
    split at h
    · cases h; exact ⟨rfl, .inl rfl, by rw [requestBytes, halfBytes_half, halfBytes_half]; rfl⟩
    · cases h
  case h_53 => cases h

/-- A transaction that carries a command is the request of its command and what was clocked in after it. -/
theorem wrote_of_frameRequest {p : Port} {rd : Readings} {bytes : List Byte} {i : Instr} (h : frameRequest p rd bytes = .command i) :
    ∃ code args padding, Wrote p code args i ∧ bytes = code :: BitVec.ofNat 8 args.length :: args ++ padding := by
  unfold frameRequest at h
  split at h
  · next code len rest =>
    split_ifs at h with cut
    split at h
    · next parsed =>
      cases h
      have taken : (rest.take len.toNat).length = len.toNat := by rw [List.length_take]; omega
      have size : BitVec.ofNat 8 (rest.take len.toNat).length = len := by rw [taken]; simp
      exact ⟨code, rest.take len.toNat, rest.drop len.toNat, wrote_of_parseArgs parsed, by
        rw [size, List.cons_append, List.cons_append, List.take_append_drop]⟩
    · cases h
  · cases h

end Sys2Proof

namespace Sys2Proof.Machine

/-! ## Transactions bit by bit (R182, R190) -/

theorem selectFalls_idle {p : Port} {s : State} (h : (s.port p).selected = false) :
    selectFalls p s = s.setPort p { s.port p with selected := true, transfer := some ⟨[], 0⟩ } := by
  rw [selectFalls, h]
  rfl

/-- The bits clocked in after the fall of select are held, and clock has fallen once for each. -/
theorem clockBits_selectFalls {p : Port} {s : State} (h : (s.port p).selected = false) (bits : List Bool) :
    clockBits p bits (selectFalls p s) = s.setPort p { s.port p with selected := true, transfer := some ⟨bits, bits.length⟩ } := by
  have begun : ((selectFalls p s).port p).transfer = some ⟨[], 0⟩ := by rw [selectFalls_idle h, State.setPort_port]
  rw [clockBits_transfer p bits begun, selectFalls_idle h]
  simp

/-- Without a transaction in progress the clock and data in change nothing (R182). -/
theorem clockBits_none {p : Port} {s : State} (h : (s.port p).transfer = none) (bits : List Bool) : clockBits p bits s = s := by
  have still (v : PortState) (e : v.transfer = none) : { v with transfer := none } = v := by cases v; cases e; rfl
  induction bits with
  | nil => rfl
  | cons b bs ih =>
    have one : clockBit p b s = s := by
      simp only [clockBit, clockFalls, clockRises, h, Option.map_none, still _ h, State.setPort_self]
    rw [clockBits, one, ih]

theorem selectRises_none {p : Port} {s : State} (rd : Readings) (h : (s.port p).transfer = none) :
    selectRises p rd s = s.setPort p { s.port p with selected := false } := by
  have still (v : PortState) (e : v.transfer = none) : { v with selected := false, transfer := none } = { v with selected := false } := by
    cases v; cases e; rfl
  simp only [selectRises, h, Option.bind_none, still _ h]

/-- A whole transaction of a request and padding hands its command to the queue and leaves the lines as they were. -/
theorem transaction_command {p : Port} {rd : Readings} {bytes : List Byte} {i : Instr} {s : State} (selected : (s.port p).selected = false)
    (transfer : (s.port p).transfer = none) (h : frameRequest p rd bytes = .command i) :
    selectRises p rd (clockBits p (bitsOfBytes bytes) (selectFalls p s)) = s.setPending (s.pending ++ [i]) := by
  have back : { s.port p with selected := false, transfer := none } = s.port p := by
    generalize s.port p = v at selected transfer
    cases v; cases selected; cases transfer; rfl
  rw [clockBits_selectFalls selected]
  simp only [selectRises, State.setPort_port, State.setPort_setPort, Option.bind_some, bytesOfBits_bits, requestRow, h, back,
    State.setPort_self]

/-- Settles O3. -/
theorem requestsReadBack : Obligations.RequestsReadBack := by
  refine ⟨fun i bytes wf h => ?_, fun p s bits selected => ?_⟩
  · obtain ⟨p, rd, code, args, reads⟩ := reads_of_requestBytes wf h
    have e : bytes = code :: BitVec.ofNat 8 args.length :: args := Option.some.inj (h.symm.trans reads.bytes)
    refine ⟨p, rd, reads.port, fun padding => e ▸ reads.framed padding, fun padding s selected transfer => ?_⟩
    exact transaction_command selected transfer (e ▸ reads.framed padding)
  · intro held
    have same : held = holderBytes (s.port p).holder := by
      dsimp only [held]
      cases (s.port p).holder with
      | none => rfl
      | some a =>
        obtain ⟨code, st, reason, result⟩ := a
        cases st <;> rcases reason with _ | r <;> first | rfl | (cases r <;> rfl)
    refine ⟨lineBit held bits.length, ?_, fun y hy => ?_, fun past => ?_⟩
    · rw [clockBits_selectFalls selected, dataOutBit, State.setPort_port, same]
      rfl
    · rw [lineBit, List.getD_eq_getElem?_getD, hy]
      rfl
    · rw [lineBit, List.getD_eq_getElem?_getD, List.getElem?_eq_none past]
      exact BitVec.getLsbD_zero

/-- Settles O4. -/
theorem commandsComeFromTheirRequest : Obligations.CommandsComeFromTheirRequest := by
  intro p rd bytes i h
  obtain ⟨code, args, padding, wrote, e⟩ := wrote_of_frameRequest h
  exact ⟨wrote.wf, wrote.port, _, padding, wrote.bytes, e⟩

/-- Settles O5: a code that no request begins with makes no command, since a command read is a command written. -/
theorem malformedRequestsAreRefused : Obligations.MalformedRequestsAreRefused := by
  intro p rd
  have cut (code len : Byte) (rest : List Byte) (short : rest.length < len.toNat) :
      frameRequest p rd (code :: len :: rest) = .malformed code := by rw [frameRequest, if_pos short]
  refine ⟨fun bytes short => ?_, cut, fun code len rest unknown => ?_, fun bytes code s h => ?_, fun bits s h => ?_⟩
  · match bytes, short with
    | [], _ => rfl
    | [_], _ => rfl
  · by_cases short : rest.length < len.toNat
    · exact cut code len rest short
    · rw [frameRequest, if_neg short]
      cases parsed : parseArgs p rd code (rest.take len.toNat) with
      | none => rfl
      | some i => exact absurd rfl (unknown i _ (wrote_of_parseArgs parsed).bytes)
  · change execMalformedRequest p bytes s = _
    rw [execMalformedRequest, h]
    rfl
  · rw [clockBits_none h, selectRises_none rd h]

/-! ## The commands of the ports -/

/-- Settles O6. -/
theorem nopAndStatusAnswer : Obligations.NopAndStatusAnswer := by
  intro p s
  refine ⟨rfl, ?_⟩
  have busy : boolOf s.line.txChar.isSome = if s.line.txChar = none then 0 else 1 := by cases s.line.txChar <;> rfl
  rw [exec_status, statusBytes, busy]
  rfl

theorem Event.items_length (e : Event) : ((e.items ++ List.replicate 6 0).take 6).length = 6 := by
  rw [List.length_take, List.length_append, List.length_replicate]
  omega

/-- Settles O7. -/
theorem eventsAreReadOldestFirst : Obligations.EventsAreReadOldestFirst := by
  refine ⟨fun e => ⟨congrArg (· + 1) e.items_length, rfl⟩, fun p count s => ⟨fun some => ?_, fun none => ?_⟩⟩
  · rw [exec_readEvents_some s some, List.length_drop, List.flatMap_def]
  · rw [exec_readEvents_none s (by omega)]
    rfl

theorem maskNamesNoKind_iff (mask : BitVec 48) : maskNamesNoKind mask = true ↔ ∃ n, 40 ≤ n ∧ mask.getLsbD n = true := by
  rw [maskNamesNoKind, bne_iff_ne]
  constructor
  · intro h
    by_contra none
    refine h (BitVec.eq_of_getLsbD_eq fun n hn => ?_)
    have := not_exists.mp none (40 + n)
    simpa [BitVec.getLsbD_extractLsb'] using fun _ => this
  · rintro ⟨n, above, set⟩ zero
    have bound : n < 48 := BitVec.lt_of_getLsbD set
    have bit := congrArg (fun v => v.getLsbD (n - 40)) zero
    simp [BitVec.getLsbD_extractLsb', Nat.add_sub_cancel' above, set] at bit
    omega

theorem exec_setEventMask (p : Port) (mask : BitVec 48) (s : State) : exec (.setEventMask p mask) s =
    if maskNamesNoKind mask then .next (s.refuse p 0x04 .range)
    else .next ((s.setPort p { s.port p with mask := mask }).done p 0x04 (maskBytes mask)) := rfl

theorem post_port (e : Event) (s : State) (p : Port) : (post e s).port p = (s.port p).receive e := by cases p <;> rfl

/-- Settles O8. -/
theorem masksAdmitEvents : Obligations.MasksAdmitEvents := by
  refine ⟨fun p mask s => ⟨fun named => ?_, fun clear => ?_⟩, fun e s p => ⟨fun shut => ?_, fun admitted room => ?_, fun admitted full => ?_⟩⟩
  · rw [exec_setEventMask, if_pos ((maskNamesNoKind_iff mask).mpr named)]
    rfl
  · have : ¬ maskNamesNoKind mask = true := fun h => by
      obtain ⟨n, above, set⟩ := (maskNamesNoKind_iff mask).mp h
      exact Bool.false_ne_true ((clear n above).symm.trans set)
    rw [exec_setEventMask, if_neg this]
    simp only [State.done, State.answer, State.setPort_port, State.setPort_setPort]
    rfl
  · rw [post_port, PortState.receive, admits, shut]
    rfl
  · rw [post_port, PortState.receive, admits, admitted, if_pos rfl, if_pos room]
  · rw [post_port, PortState.receive, admits, admitted, if_pos rfl, if_neg (Nat.not_lt.mpr full)]

end Sys2Proof.Machine
end

section
-- One proof is elaborated at a time: the threads of many at once do not fit the memory a check allows.
set_option Elab.async false

/-! SUPPORT. Resets: the identity cells that a PROGRAM cut short leaves (R160), what a latch load takes (R161), the events of the end of
a reset, and the state that a cold and a warm reset leave. -/

namespace Sys2Proof.Machine

/-! ## Positions written (R153, R156, R160) -/

theorem deadMask_nil (w base : Nat) : deadMask w base [] = 0 := by
  unfold deadMask
  generalize List.range w = ks
  induction ks with
  | nil => rfl
  | cons k ks ih => exact ih

/-- The byte of a position after a run written from p up, in a slot whose cells all take a write. -/
def runWritten (p : Nat) (bs : List Byte) (j : Nat) (old : Byte) : Byte :=
  if p ≤ j then (bs[j - p]?).elim old (old &&& ·) else old

theorem IdSlot.writePosition_positions {k : IdSlot} (dead : k.deadBits = []) (p : Nat) (b hold : Byte) :
    k.writePosition p b hold = { k with positions := k.positions.modify p (· &&& (b ||| hold)) } := by
  simp only [IdSlot.writePosition, dead, deadMask_nil, otpWrite, BitVec.ofNat_eq_ofNat, BitVec.zero_or]

theorem IdSlot.writeRun_positions (bs : List Byte) {k : IdSlot} (dead : k.deadBits = []) (p : Nat) :
    k.writeRun p bs = { k with positions := k.positions.mapIdx (runWritten p bs) } := by
  induction bs generalizing k p with
  | nil =>
    have same (j : Nat) : runWritten p [] j = id := funext fun old => by simp [runWritten]
    have : k.positions.mapIdx (runWritten p []) = k.positions := by
      refine List.ext_getElem? fun j => ?_
      rw [List.getElem?_mapIdx, same, Option.map_id, id_eq]
    rw [this]
    rfl
  | cons b bs ih =>
    rw [IdSlot.writeRun, k.writePosition_positions dead, ih (by exact dead)]
    congr 1
    refine List.ext_getElem? fun j => ?_
    simp only [List.getElem?_mapIdx, List.getElem?_modify, Option.map_eq_map, Option.map_map]
    refine congrArg (fun f => Option.map f _) (funext fun old => ?_)
    simp only [Function.comp_apply, runWritten]
    rcases Nat.lt_trichotomy j p with below | rfl | above
    · rw [if_neg (by omega), if_neg (by omega), if_neg (by omega)]
    · rw [if_neg (by omega), if_pos rfl, if_pos (Nat.le_refl _)]
      simp
    · rw [if_pos (by omega), if_neg (by omega), if_pos (by omega), show j - p = j - (p + 1) + 1 by omega, List.getElem?_cons_succ]

theorem IdSlot.writeCut_cutAt {k : IdSlot} (dead : k.deadBits = []) (first : Nat) (text : List Byte) {whole : Nat}
    (h : whole ≤ text.length) (hold : Byte) : k.CutAt (k.writeCut first text whole hold) first text := by
  have ran := IdSlot.writeRun_positions (text.take whole) dead first
  have shape : k.writeCut first text whole hold = { k with positions := (k.writeCut first text whole hold).positions }
      ∧ (k.writeCut first text whole hold).positions.length = k.positions.length
      ∧ ∀ j, (k.writeCut first text whole hold).positions[j]? = k.positions[j]?.map fun old =>
        if j = first + whole then (text[whole]?).elim old (fun b => old &&& (b ||| hold)) else runWritten first (text.take whole) j old := by
    have at_end (old : Byte) : runWritten first (text.take whole) (first + whole) old = old := by
      simp [runWritten]
    unfold IdSlot.writeCut
    cases next : text[whole]? with
    | none =>
      rw [ran]
      refine ⟨rfl, List.length_mapIdx, fun j => ?_⟩
      rw [List.getElem?_mapIdx]
      refine congrArg (fun f => Option.map f _) (funext fun old => ?_)
      split_ifs with e
      · rw [e, at_end]; rfl
      · rfl
    | some b =>
      dsimp only
      rw [ran, IdSlot.writePosition_positions (by exact dead)]
      refine ⟨rfl, by rw [List.length_modify, List.length_mapIdx], fun j => ?_⟩
      rw [List.getElem?_modify, List.getElem?_mapIdx, Option.map_eq_map, Option.map_map]
      refine congrArg (fun f => Option.map f _) (funext fun old => ?_)
      by_cases e : j = first + whole
      · rw [Function.comp_apply, if_pos e, if_pos e.symm, e, at_end]
        rfl
      · rw [Function.comp_apply, if_neg e, if_neg (Ne.symm e)]
  obtain ⟨others, size, cells⟩ := shape
  refine ⟨others, size, whole, hold, h, fun j old at_j => ⟨fun outside => ?_, fun b from_first in_text below => ?_,
    fun b e in_text => ?_⟩⟩
  · rw [cells, at_j, Option.map_some]
    split_ifs with e
    · have : text[whole]? = none := List.getElem?_eq_none (by omega)
      rw [this]; rfl
    · simp only [runWritten, List.getElem?_take]
      split_ifs
      · have : text[j - first]? = none := List.getElem?_eq_none (by omega)
        rw [this]; rfl
      · rfl
      · rfl
  · rw [cells, at_j, Option.map_some, if_neg (by omega), runWritten, if_pos from_first, List.getElem?_take, if_pos (by omega), in_text]
    rfl
  · rw [cells, at_j, Option.map_some, if_pos e, show whole = j - first by omega, in_text]
    rfl

/-! ## The latch load (R161) -/

theorem descending_append (i : Identity) (slots : List IdSlot) (k : IdSlot) :
    Identity.descending { i with slots := slots ++ [k] } = (slots.length, k) :: Identity.descending { i with slots := slots } := by
  simp [Identity.descending, List.zipIdx_append]

/-- What a slot gives to a latch load, in a slot of 20 positions with no more wrong bits than its check code tells apart: its text, or
nothing. -/
theorem loadFrom_cons {k : IdSlot} (size : k.positions.length = 20) (told : k.wrongBits.length ≤ 2) (n : Nat) (rest : List (Nat × IdSlot)) :
    (∀ ys, k.Taken ys → loadFrom ((n, k) :: rest) = (some ⟨n, ys⟩, if k.wrongBits = [] then [] else [.identityCorrected n]))
    ∧ ((∀ ys, ¬ k.Taken ys) → loadFrom ((n, k) :: rest)
        = ((loadFrom rest).1, (if k.marker then [.identityBad n] else []) ++ (loadFrom rest).2)) := by
  have text (bytes : List Byte) (len : bytes.length = 21) (ys : List Symbol) : latchText bytes = some ys ↔
      ∃ m : Byte, bytes[20]? = some m ∧ 1 ≤ m.toNat ∧ m.toNat ≤ 20 ∧ ys = (bytes.take m.toNat).map Symbol.ofByte := by
    have last : bytes[20]? = some (bytes.getD 20 0xFF) := by
      rw [List.getD_eq_getElem?_getD, List.getElem?_eq_getElem (by omega)]
      rfl
    simp only [latchText, last, Option.some.injEq, exists_eq_left']
    split_ifs with range
    · simp only [range, true_and, Option.some.injEq, eq_comm]
    · simp only [false_iff]
      exact fun h => range ⟨h.1, h.2.1⟩
  have len : (k.positions ++ [k.length]).length = 21 := by simp [size]
  have flipped (e : Nat) : (flipBit (k.positions ++ [k.length]) e).length = 21 := by rw [flipBit_length, len]
  unfold IdSlot.Taken
  rw [loadFrom]
  cases k.marker with
  | false => exact ⟨fun ys h => absurd h.1 Bool.false_ne_true, fun _ => by simp⟩
  | true =>
    simp only [IdSlot.verdict, true_and, if_true]
    match bits : k.wrongBits, told with
    | [], _ =>
      simp only [verdictOf, List.length_nil, Nat.zero_le, true_and, if_true, ← text _ len]
      refine ⟨fun ys h => by rw [h], fun none => ?_⟩
      rw [Option.eq_none_iff_forall_ne_some.mpr none]
      rfl
    | [e], _ =>
      simp only [verdictOf, List.length_singleton, Nat.le_refl, true_and]
      have flip : (k.positions ++ [k.length]).modify (e / 8) (fun b => b ^^^ 1#8 <<< (e % 8)) = flipBit (k.positions ++ [k.length]) e := rfl
      simp only [flip, ← text _ (flipped e)]
      refine ⟨fun ys h => by rw [h]; rfl, fun none => ?_⟩
      rw [Option.eq_none_iff_forall_ne_some.mpr none]
      rfl
    | [_, _], _ =>
      simp only [verdictOf, List.length_cons, List.length_nil]
      exact ⟨fun ys h => absurd h.1 (by omega), fun _ => rfl⟩

/-- IDENTITY BAD for the committed slots from a number up, the highest first. -/
def badFrom (slots : List IdSlot) (n : Nat) : List Event :=
  (((List.range slots.length).filter fun m => n ≤ m && (slots.getD m .unwritten).marker).reverse).map .identityBad

theorem badFrom_append (slots : List IdSlot) (k : IdSlot) {n : Nat} (h : n ≤ slots.length) :
    badFrom (slots ++ [k]) n = (if k.marker then [.identityBad slots.length] else []) ++ badFrom slots n := by
  have lower : (List.range slots.length).filter (fun m => n ≤ m && ((slots ++ [k]).getD m .unwritten).marker)
      = (List.range slots.length).filter fun m => n ≤ m && (slots.getD m .unwritten).marker := by
    refine List.filter_congr fun m hm => ?_
    rw [List.getD_append _ _ _ _ (List.mem_range.mp hm)]
  have top : (slots ++ [k]).getD slots.length .unwritten = k := by simp
  unfold badFrom
  rw [List.length_append, List.length_singleton, List.range_succ, List.filter_append, lower, List.filter_singleton, top]
  cases k.marker <;> simp [h]

theorem badFrom_length (slots : List IdSlot) : badFrom slots slots.length = [] := by
  have : (List.range slots.length).filter (fun m => slots.length ≤ m && (slots.getD m .unwritten).marker) = [] :=
    List.filter_eq_nil_iff.mpr fun m hm => by
      have := List.mem_range.mp hm
      simp; omega
  rw [badFrom, this]
  rfl

theorem latchLoaded (i : Identity) {slots : List IdSlot} (h : ∀ k ∈ slots, k.positions.length = 20 ∧ k.wrongBits.length ≤ 2) :
    LatchLoaded slots (loadFrom (Identity.descending { i with slots := slots })).1
      (loadFrom (Identity.descending { i with slots := slots })).2 := by
  induction slots using List.reverseRecOn with
  | nil =>
    refine ⟨fun n k ys found => ?_, fun _ => ⟨rfl, rfl⟩⟩
    cases found
  | append_singleton slots k ih =>
    obtain ⟨size, told⟩ := h k (by simp)
    obtain ⟨takes, passes⟩ := loadFrom_cons size told slots.length (Identity.descending { i with slots := slots })
    obtain ⟨found_below, none_below⟩ := ih fun l hl => h l (by simp [hl])
    have last : (slots ++ [k])[slots.length]? = some k := by simp
    rw [descending_append]
    refine ⟨fun n l ys at_n taken above => ?_, fun none => ?_⟩
    · rcases Nat.lt_or_ge n slots.length with below | high
      · have not_last (zs : List Symbol) : ¬ k.Taken zs := above slots.length k zs below last
        rw [List.getElem?_append_left below] at at_n
        obtain ⟨latch, events⟩ := found_below n l ys at_n taken fun m l' zs hm hl' =>
          above m l' zs hm (by rw [List.getElem?_append_left (List.getElem?_eq_some_iff.mp hl').1, hl'])
        rw [passes not_last]
        refine ⟨latch, ?_⟩
        change _ ++ _ = badFrom (slots ++ [k]) (n + 1) ++ _
        rw [events, badFrom_append _ _ below, List.append_assoc]
        rfl
      · have bound : n < slots.length + 1 := by simpa using (List.getElem?_eq_some_iff.mp at_n).1
        obtain rfl : n = slots.length := by omega
        cases last.symm.trans at_n
        rw [takes ys taken]
        refine ⟨rfl, ?_⟩
        change _ = badFrom (slots ++ [k]) (slots.length + 1) ++ _
        rw [show slots.length + 1 = (slots ++ [k]).length by simp, badFrom_length]
        rfl
    · obtain ⟨latch, events⟩ := none_below fun n l ys hl => none n l ys (by
        rw [List.getElem?_append_left (List.getElem?_eq_some_iff.mp hl).1, hl])
      rw [passes fun ys => none slots.length k ys last]
      refine ⟨latch, ?_⟩
      change _ ++ _ = badFrom (slots ++ [k]) 0
      rw [events, badFrom_append _ _ (Nat.zero_le _)]
      rfl

theorem loadFrom_events_length (l : List (Nat × IdSlot)) : (loadFrom l).2.length ≤ l.length := by
  induction l with
  | nil => exact Nat.le_refl 0
  | cons q rest ih =>
    obtain ⟨n, k⟩ := q
    have more : (loadFrom rest).2.length + 1 ≤ rest.length + 1 := Nat.succ_le_succ ih
    unfold loadFrom
    dsimp only
    split_ifs
    · split
      · split
        · exact Nat.zero_le _
        · exact more
      · split
        · exact Nat.succ_le_succ (Nat.zero_le _)
        · exact more
      · exact more
    · exact ih.trans (Nat.le_succ _)

/-! ## The events of the end of a reset -/

theorem admits_full (e : Event) : admits fullMask e = true := by
  have all : ∀ k < 40, fullMask.getLsbD k = true := by decide
  exact all e.kind (by cases e <;> simp [Event.kind])

theorem postAll_port (es : List Event) (s : State) (p : Port) : (postAll es s).port p = es.foldl PortState.receive (s.port p) := by
  induction es generalizing s with
  | nil => rfl
  | cons e es ih => rw [postAll, ih, post_port]; rfl

/-- Events posted to a port that admits every kind and has room join its queue in order. -/
theorem foldl_receive_full (es : List Event) {v : PortState} (mask : v.mask = fullMask) (room : v.queue.length + es.length ≤ 16) :
    es.foldl PortState.receive v = { v with queue := v.queue ++ es } := by
  induction es generalizing v with
  | nil => simp
  | cons e es ih =>
    rw [List.length_cons] at room
    have joined : v.receive e = { v with queue := v.queue ++ [e] } := by
      rw [PortState.receive, mask, admits_full, if_pos rfl, if_pos (show v.queue.length < 16 by omega)]
    rw [List.foldl_cons, joined, ih (v := { v with queue := v.queue ++ [e] }) mask (by
      rw [List.length_append, List.length_singleton]; omega), List.append_assoc]
    rfl

/-- The events of the end of a reset in their order (R152, R161). -/
def endEvents (s : State) : List Event := (loadFrom s.ident.descending).2 ++ punchResetEvents s.punch

theorem postAll_append (es fs : List Event) (s : State) : postAll (es ++ fs) s = postAll fs (postAll es s) := by
  induction es generalizing s with
  | nil => rfl
  | cons e es ih => exact ih _

theorem resetEnd_eq (s : State) :
    resetEnd s = postAll (endEvents s) (s.setIdent { s.ident with latch := (loadFrom s.ident.descending).1 }) := by
  rw [endEvents, postAll_append, resetEnd, loadLatch, postAll_punch]
  rfl

theorem endEvents_length {s : State} (h : s.ident.slots.length = 8) : (endEvents s).length ≤ 10 := by
  have load : (loadFrom s.ident.descending).2.length ≤ 8 := by
    refine (loadFrom_events_length _).trans ?_
    simp [Identity.descending, h]
  have pins : (punchResetEvents s.punch).length ≤ 2 := by
    unfold punchResetEvents
    split_ifs <;> decide
  rw [endEvents, List.length_append]
  omega

/-- A port after the end of a reset, which found it with at most six entries. -/
theorem resetEnd_port {s : State} (h : s.ident.slots.length = 8) {p : Port} (mask : (s.port p).mask = fullMask)
    (room : (s.port p).queue.length ≤ 6) : (resetEnd s).port p = { s.port p with queue := (s.port p).queue ++ endEvents s } := by
  have bound := endEvents_length h
  rw [resetEnd_eq, postAll_port, show (s.setIdent _).port p = s.port p by cases p <;> rfl,
    foldl_receive_full _ mask (by omega)]

/-! ## The state that a reset leaves -/

theorem cut_cells (i : Identity) (draw : Nat) :
    ((∀ n first text, i.op ≠ some (.program n first text)) → (i.cut draw).slots = i.slots)
    ∧ ∀ n first text k, i.op = some (.program n first text) → i.slots[n]? = some k → k.deadBits = [] →
      (∀ j, j ≠ n → (i.cut draw).slots[j]? = i.slots[j]?) ∧ ∃ l, (i.cut draw).slots[n]? = some l ∧ k.CutAt l first text := by
  refine ⟨fun h => ?_, fun n first text k op at_n dead => ?_⟩
  · unfold Identity.cut Identity.midProgram
    split
    · next op => exact absurd op (h _ _ _)
    · rfl
  · have slot : i.slot n = k := by rw [Identity.slot, List.getD_eq_getElem?_getD, at_n]; rfl
    have cells : (i.cut draw).slots = i.slots.set n (k.writeCut first text
        (min text.length (Config.programProgress draw)) (Config.programPartial draw)) := by
      simp only [Identity.cut, Identity.midProgram, op, slot]
      rfl
    rw [cells]
    exact ⟨fun j ne => List.getElem?_set_ne (Ne.symm ne), _, List.getElem?_set_self (List.getElem?_eq_some_iff.mp at_n).1,
      IdSlot.writeCut_cutAt dead first text (Nat.min_le_left _ _) _⟩

theorem IdSlot.writePosition_shape (k : IdSlot) (p : Nat) (b hold : Byte) :
    (k.writePosition p b hold).positions.length = k.positions.length ∧ (k.writePosition p b hold).wrongBits = k.wrongBits :=
  ⟨List.length_modify .., rfl⟩

theorem IdSlot.writeRun_shape (bs : List Byte) (k : IdSlot) (p : Nat) :
    (k.writeRun p bs).positions.length = k.positions.length ∧ (k.writeRun p bs).wrongBits = k.wrongBits := by
  induction bs generalizing k p with
  | nil => exact ⟨rfl, rfl⟩
  | cons b bs ih =>
    obtain ⟨len, wrong⟩ := ih (k.writePosition p b 0) (p + 1)
    exact ⟨len.trans (k.writePosition_shape p b 0).1, wrong⟩

theorem IdSlot.writeCut_shape (k : IdSlot) (first : Nat) (text : List Byte) (whole : Nat) (hold : Byte) :
    (k.writeCut first text whole hold).positions.length = k.positions.length
    ∧ (k.writeCut first text whole hold).wrongBits = k.wrongBits := by
  obtain ⟨len, wrong⟩ := IdSlot.writeRun_shape (text.take whole) k first
  unfold IdSlot.writeCut
  cases text[whole]? with
  | none => exact ⟨len, wrong⟩
  | some b => exact ⟨(IdSlot.writePosition_shape _ _ b hold).1.trans len, wrong⟩

/-- What the check of a slot needs of it: 20 positions, and no more wrong bits than its check code tells apart. -/
theorem cut_told {i : Identity} (h : ∀ k ∈ i.slots, k.positions.length = 20 ∧ k.wrongBits.length ≤ 2) (draw : Nat) :
    ∀ k ∈ (i.cut draw).slots, k.positions.length = 20 ∧ k.wrongBits.length ≤ 2 := by
  intro k inside
  cases op : i.op with
  | some o =>
    cases o with
    | program n first text =>
      simp only [Identity.cut, Identity.midProgram, op] at inside
      rcases Nat.lt_or_ge n i.slots.length with bound | out
      · rcases List.mem_or_eq_of_mem_set inside with old | rfl
        · exact h k old
        · have slot : i.slot n ∈ i.slots := by
            rw [Identity.slot, List.getD_eq_getElem?_getD, List.getElem?_eq_getElem bound]
            exact List.getElem_mem bound
          obtain ⟨len, wrong⟩ := IdSlot.writeCut_shape (i.slot n) first text
            (min text.length (Config.programProgress draw)) (Config.programPartial draw)
          exact ⟨len.trans (h _ slot).1, wrong ▸ (h _ slot).2⟩
      · rw [Identity.setSlot, List.set_eq_of_length_le out] at inside
        exact h k inside
    | _ =>
      simp only [Identity.cut, Identity.midProgram, op] at inside
      exact h k inside
  | none =>
    simp only [Identity.cut, Identity.midProgram, op] at inside
    exact h k inside

/-- Events change the two ports alone. -/
theorem postAll_eq (es : List Event) (s : State) :
    postAll es s = { s with sPort := (postAll es s).sPort, xPort := (postAll es s).xPort } := by
  induction es generalizing s with
  | nil => rfl
  | cons e es ih => rw [postAll, ih (post e s)]; rfl

/-- A reset leaves what the reset tables give, its ports apart. -/
theorem resetEnd_rest {s u : State} {t : Store} {before : List Event} (hu : u = postAll before (State.afterReset t s)) :
    resetEnd u = { State.afterReset t s with
      ident := { s.ident.cut s.freeCount with latch := (loadFrom (s.ident.cut s.freeCount).descending).1 }
      sPort := (resetEnd u).sPort, xPort := (resetEnd u).xPort } := by
  rw [resetEnd_eq, postAll_eq (endEvents u), hu, postAll_eq before]
  rfl

/-- What the reset tables give, over any store, with the events posted before the end of the reset. -/
theorem resetEnd_afterReset {s u : State} {t : Store} (slots : s.ident.slots.length = 8) {before : List Event}
    (hu : u = postAll before (State.afterReset t s)) (few : before.length ≤ 6) :
    AfterReset s (resetEnd u) ∧ (resetEnd u).store = t
    ∧ ∀ p, ((resetEnd u).port p).queue = before ++ (loadFrom (resetEnd u).ident.descending).2
      ++ (if s.punch.tapeLow then [.punchTapeLow 500] else []) ++ (if s.punch.switchOff then [.punchOff .switch] else []) := by
  have size : (s.ident.cut s.freeCount).slots.length = 8 := (Identity.cut_falls _ _).1.trans slots
  have began (p : Port) : u.port p = { PortState.afterReset (s.port p).selected with queue := before } := by
    rw [hu, postAll_port, foldl_receive_full before (by cases p <;> rfl)
      (by cases p <;> simpa [State.port, State.afterReset, PortState.afterReset] using few.trans (by decide))]
    cases p <;> rfl
  have ident : u.ident = s.ident.cut s.freeCount := by rw [hu, postAll_ident]; rfl
  have punch : u.punch = .afterReset s.punch.switchOff s.punch.tapeLow := by rw [hu, postAll_punch]; rfl
  have ended (p : Port) : (resetEnd u).port p = { PortState.afterReset (s.port p).selected with queue := before ++ endEvents u } := by
    rw [resetEnd_port (ident ▸ size) (by rw [began]; rfl) (by rw [began]; exact few), began]
  have sPort : (resetEnd u).sPort = { PortState.afterReset s.sPort.selected with queue := before ++ endEvents u } := ended .s
  have xPort : (resetEnd u).xPort = { PortState.afterReset s.xPort.selected with queue := before ++ endEvents u } := ended .x
  have rest := resetEnd_rest hu
  obtain ⟨cells, cutShort⟩ := cut_cells s.ident s.freeCount
  refine ⟨?_, by rw [rest]; rfl, fun p => ?_⟩
  · rw [sPort, xPort] at rest
    rw [rest]
    exact {
      pins := rfl
      line := ⟨rfl, rfl, rfl, rfl, rfl, rfl, rfl, rfl⟩
      receiver := ⟨rfl, rfl, rfl, rfl⟩
      quality := ⟨rfl, rfl, rfl, rfl, rfl, rfl⟩
      transmitter := ⟨rfl, rfl, rfl, rfl, rfl⟩
      arbiter := ⟨rfl, rfl, rfl, rfl⟩
      keyboard := ⟨rfl, rfl, rfl, rfl, rfl, rfl, rfl, rfl, rfl⟩
      rows := ⟨rfl, rfl, rfl, rfl⟩
      gate := ⟨rfl, rfl, rfl, rfl, rfl⟩
      channels := ⟨rfl, rfl⟩
      printer := ⟨rfl, rfl, rfl, rfl, rfl, rfl, rfl, rfl, rfl, rfl, rfl⟩
      punch := ⟨rfl, rfl, rfl, rfl, rfl, rfl, rfl, rfl, rfl, rfl, rfl⟩
      identity := ⟨rfl, rfl, rfl, by unfold Identity.cut Identity.midProgram; split <;> rfl⟩
      cells := ⟨cells, cutShort⟩
      loaded := fun told => latchLoaded { s.ident.cut s.freeCount with
        latch := (loadFrom (s.ident.cut s.freeCount).descending).1 } (cut_told told s.freeCount)
      call := ⟨rfl, rfl, rfl, rfl, rfl, rfl, rfl, rfl, rfl, rfl, rfl, rfl, rfl, rfl, rfl, rfl, rfl⟩
      answering := ⟨rfl, rfl, rfl, rfl, rfl, rfl, rfl⟩
      holders := ⟨rfl, rfl⟩
      transactions := ⟨rfl, rfl, rfl, rfl⟩
      masks := fun e => ⟨admits_full e, admits_full e⟩
      flags := ⟨rfl, rfl⟩ }
  · have load : (loadFrom (resetEnd u).ident.descending).2 = (loadFrom u.ident.descending).2 := by
      rw [rest, ident]
      rfl
    rw [ended, load, endEvents, punch, punchResetEvents]
    simp only [List.append_assoc]
    rfl

/-- Settles O9. -/
theorem coldResetLeaves : Obligations.ColdResetLeaves := by
  intro s slots
  obtain ⟨left, store, queues⟩ := resetEnd_afterReset (t := .afterCold) slots (before := []) rfl (by decide)
  simp only [List.nil_append] at queues
  refine ⟨coldResetState s, rfl, left, ?_⟩
  rw [coldResetState, show (resetEnd (State.afterReset .afterCold s)).store = .afterCold from store]
  refine ⟨by rw [Store.afterCold], rfl, rfl, rfl, fun h => ?_, rfl, rfl, rfl, rfl, rfl, _, rfl, ?_⟩
  · rcases h with _ | _ | (_ | _) <;> rfl
  · exact ⟨queues .s, queues .x⟩

/-- Settles O10. -/
theorem warmResetLeaves : Obligations.WarmResetLeaves := by
  intro s c cause by_pin slots
  have ran : exec c s = .next (warmResetState cause s) := by
    rcases by_pin with ⟨rfl, rfl⟩ | ⟨p, rfl, rfl⟩ <;> rfl
  obtain ⟨left, store, queues⟩ := resetEnd_afterReset (t := s.store.afterWarm) slots (before := [.restarted cause]) rfl
    (Nat.le_add_left 1 5)
  refine ⟨warmResetState cause s, ran, left, ?_⟩
  rw [warmResetState, show (resetEnd (post (.restarted cause) (State.afterReset s.store.afterWarm s))).store = s.store.afterWarm from store]
  exact ⟨rfl, rfl, rfl, rfl, rfl, rfl, rfl, rfl, fun h => by rcases h with _ | _ | (_ | _) <;> rfl, rfl, rfl, _, rfl, queues .s, queues .x⟩

end Sys2Proof.Machine
end

section
-- One proof is elaborated at a time: the threads of many at once do not fit the memory a check allows.
set_option Elab.async false

/-! SUPPORT. The Line Unit: the arbiter's operations written out, settings and rates (R20, R21), the receiver (R22 to R29), the line
break (R26) and what a command leaves that lets traffic move. -/

namespace Sys2Proof.Machine

/-! ## The arbiter -/

theorem LineUnit.pass_given {l : LineUnit} {q : Requester} {qs : List Requester} (free : l.holder = none) (enabled : l.txEnable = true)
    (rate : l.pendingRate = none) (list : l.requests = q :: qs) : l.pass = { l with holder := some q, requests := qs } := by
  rw [LineUnit.pass, if_pos ⟨free, enabled, rate⟩, list]

theorem LineUnit.pass_kept {l : LineUnit} (h : l.holder ≠ none ∨ l.txEnable = false ∨ l.pendingRate ≠ none ∨ l.requests = []) :
    l.pass = l := by
  rw [LineUnit.pass]
  split_ifs with open'
  · obtain ⟨free, enabled, rate⟩ := open'
    have empty : l.requests = [] := by simpa [free, enabled, rate] using h
    rw [empty]
  · rfl

/-- A request written out (R38, R39). -/
theorem LineUnit.request_asked (l : LineUnit) (r : Requester) : l.request r = l.asked r := by
  unfold LineUnit.request LineUnit.asked
  by_cases known : l.holder = some r ∨ r ∈ l.requests
  · simp [known]
  · simp only [known, if_false, not_false_eq_true, true_and]
    by_cases free : l.holder = none ∧ l.txEnable = true ∧ l.pendingRate = none
    · obtain ⟨q, qs, list⟩ := List.exists_cons_of_ne_nil (show l.requests ++ [r] ≠ [] by simp)
      rw [LineUnit.pass_given (by exact free.1) (by exact free.2.1) (by exact free.2.2) (by exact list), if_pos free, if_pos free, list]
      rfl
    · rw [LineUnit.pass, if_neg free, if_neg free, if_neg free]

theorem LineUnit.release_other {l : LineUnit} {r : Requester} (h : l.holder ≠ some r) : l.release r = l := if_neg h

theorem LineUnit.release_own {l : LineUnit} {r : Requester} (h : l.holder = some r) :
    l.release r = { l with holder := none, releaseRun := if r = Requester.keyboard then none else l.releaseRun }.pass := if_pos h

theorem LineUnit.leave_other {l : LineUnit} {r : Requester} (h : l.holder ≠ some r) : l.leave r = l.withdraw r :=
  LineUnit.release_other (l := l.withdraw r) h

theorem LineUnit.leave_own {l : LineUnit} {r : Requester} (h : l.holder = some r) :
    l.leave r = { l.withdraw r with holder := none, releaseRun := if r = Requester.keyboard then none else l.releaseRun }.pass :=
  LineUnit.release_own (l := l.withdraw r) h

theorem LineUnit.pass_sublist (l : LineUnit) : l.pass.requests.Sublist l.requests := by
  unfold LineUnit.pass
  split_ifs
  · split
    · next r rs list => rw [list]; exact List.sublist_cons_self r rs
    · exact List.Sublist.refl _
  · exact List.Sublist.refl _

theorem LineUnit.leave_sublist (l : LineUnit) (r : Requester) : (l.leave r).requests.Sublist l.requests := by
  by_cases own : l.holder = some r
  · rw [LineUnit.leave_own own]
    exact (LineUnit.pass_sublist _).trans List.filter_sublist
  · rw [LineUnit.leave_other own]
    exact List.filter_sublist

/-! ## Traffic that may move -/

theorem answer_engaged {s : State} (h : s.Engaged) (p : Port) (a : Answer) : (s.answer p a).Engaged := by cases p <;> exact h

/-- What a command hands to kick stands, where the transmitter is taken and nothing is typed. -/
theorem exec_engaged {c : Instr} {s u : State} (h : exec c s = .next (kick u)) (engaged : u.Engaged) : exec c s = .next u := by
  rw [h, kick_engaged engaged]

/-- A character is in flight and nothing is typed. -/
theorem engaged_inFlight {s : State} {k : TxChar} (busy : s.line.txChar = some k) (empty : s.kb.typeahead = [])
    (absent : .keyboard ∉ s.line.requests) : s.Engaged :=
  ⟨.inl (by rw [busy]; exact Option.some_ne_none k), empty, absent⟩

theorem LineUnit.pass_engaged_fields (l : LineUnit) :
    l.pass.txChar = l.txChar ∧ l.pass.txEnable = l.txEnable ∧ l.pass.abState = l.abState := by
  unfold LineUnit.pass
  split_ifs
  · split <;> exact ⟨rfl, rfl, rfl⟩
  · exact ⟨rfl, rfl, rfl⟩

theorem LineUnit.leave_engaged_fields (l : LineUnit) (r : Requester) :
    (l.leave r).txChar = l.txChar ∧ (l.leave r).txEnable = l.txEnable ∧ (l.leave r).abState = l.abState := by
  by_cases own : l.holder = some r
  · rw [LineUnit.leave_own own]
    exact LineUnit.pass_engaged_fields _
  · rw [LineUnit.leave_other own]
    exact ⟨rfl, rfl, rfl⟩

theorem State.Engaged.of {s t : State} (h : s.Engaged) (kb : t.kb.typeahead = s.kb.typeahead)
    (line : t.line.txChar = s.line.txChar ∧ t.line.txEnable = s.line.txEnable ∧ t.line.abState = s.line.abState)
    (requests : t.line.requests.Sublist s.line.requests) : t.Engaged := by
  obtain ⟨busy, empty, absent⟩ := h
  obtain ⟨char, enable, ab⟩ := line
  rw [State.Engaged, char, enable, ab, kb]
  exact ⟨busy, empty, fun h => absent (requests.subset h)⟩

/-- Settles O29. -/
theorem shiftsAreInserted : Obligations.ShiftsAreInserted := by
  intro tracker y
  obtain ⟨code, cls, mutilated⟩ := y
  refine ⟨fun h => ?_, fun clear n => ?_, fun clear l => ?_, fun clear f => ?_⟩
  · exact if_pos h
  · cases clear; cases n
    rfl
  · cases clear; cases l
    cases tracker <;> simp [emission, caseAfter]
  · cases clear; cases f
    cases tracker <;> simp [emission, caseAfter]

/-- Settles O25. -/
theorem receivedSymbolsAreClassed : Obligations.ReceivedSymbolsAreClassed := by
  refine ⟨by decide, fun rx usos code => ?_⟩
  refine ⟨?_, fun not_neutral => ?_, fun neutral => ?_⟩
  · cases rx <;> rfl
  · have others : code ≠ 30 ∧ code ≠ 31 ∧ code ≠ 16 ∧ neutralCode code = false := by
      revert not_neutral
      revert code
      decide
    obtain ⟨c30, c31, c16, other⟩ := others
    simp only [classify, Bool.not_true, Bool.false_eq_true, if_false, if_neg c30, if_neg c31, if_neg c16, other]
    cases rx <;> rfl
  · have six : code = 0 ∨ code = 1 ∨ code = 2 ∨ code = 16 ∨ code = 30 ∨ code = 31 := by
      revert neutral
      revert code
      decide
    rcases six with rfl | rfl | rfl | rfl | rfl | rfl <;> cases rx <;> cases usos <;> rfl

/-- Settles O21. -/
theorem lineQualityIsRead : Obligations.LineQualityIsRead := by
  intro p s
  change Host.Outcome.next (s.answer p ⟨0x15, .done, none, s.line.qualityBytes⟩) = _
  simp only [LineUnit.qualityBytes, halfOf, runOf, List.length_map, List.cons_append, List.nil_append]

/-- Settles O19. -/
theorem receiverTurnsOnAndOff : Obligations.ReceiverTurnsOnAndOff := by
  intro p s
  have off : exec (.receiveOff p) s = .next ((s.setLine (if s.line.rx = .off then s.line else
      { s.line with rx := .off, breakDeclared := false, maxDisp := 0, units := [] })).done p 0x12 []) := rfl
  have on : exec (.receiveOn p) s = .next ((s.setLine (if s.line.rx = .off then
      (if s.pins.lineMark then s.line.hunt else { s.line with rx := .spacingHold, breakDeclared := false, maxDisp := 0, units := [] })
      else s.line)).done p 0x11 []) := rfl
  refine ⟨fun h => ?_, fun h => ?_, fun h => ?_, fun h mark => ?_, fun h space => ?_⟩
  · rw [off, if_pos h]; rfl
  · rw [off, if_neg h]; rfl
  · rw [on, if_neg h]; rfl
  · rw [on, if_pos h, if_pos mark]; rfl
  · rw [on, if_pos h, if_neg (by rw [space]; decide)]; rfl

theorem exec_startEdge (s : State) : exec .startEdge s = execStartEdge s := rfl

theorem execStartEdge_hunting {s : State} (hunting : s.line.rx = .hunting) (mark : s.pins.lineMark = true) :
    execStartEdge s = .next { s with
      pins := { s.pins with lineMark := false }
      line := { s.line with rx := .starting, maxDisp := 0, units := [], lastFall := 0 } } := by
  rw [execStartEdge, if_neg (by simp [hunting, mark, RxState.timing]), if_pos hunting]
  rfl

theorem execStartCheck_mark {s : State} (starting : s.line.rx = .starting) (mark : s.pins.lineMark = true) :
    execStartCheck s = .next { s with line := { s.line with rx := .hunting, maxDisp := 0, units := [] } } := by
  rw [execStartCheck, if_pos starting, if_pos mark]
  rfl

/-- Settles O22. -/
theorem charactersAreAssembled : Obligations.CharactersAreAssembled := by
  intro s
  refine ⟨execStartEdge_hunting, fun off mark => ?_, execStartCheck_mark, fun starting space => ?_, fun assembling few => ?_⟩
  · change execStartEdge s = _
    rw [execStartEdge, if_neg (by simp [off, mark, RxState.timing]), if_neg (by rw [off]; decide)]
    rfl
  · change execStartCheck s = _
    rw [execStartCheck, if_pos starting, if_neg (by rw [space]; decide)]
    rfl
  · exact if_pos ⟨assembling, few⟩

theorem displacement_eq (t : Nat) : displacement t = ((t : Int) - 64 * ((t + 32) / 64 : Nat)).natAbs := by
  unfold displacement
  dsimp only
  split_ifs <;> omega

/-- Settles O23. -/
theorem transitionsAreTimed : Obligations.TransitionsAreTimed := by
  refine ⟨fun slot s timing low high => ?_, fun slot s out => ?_, fun s hunting mark => ?_, fun s starting mark => ?_, fun p s on => ?_⟩
  · have timed : s.line.rx.timing = true := by rcases timing with h | h <;> rw [h] <;> rfl
    refine ⟨_, _, rfl, by omega, by omega, if_pos ⟨timed, low, high⟩, ?_⟩
    rw [← displacement_eq]
    rfl
  · refine if_neg fun ⟨_, low, high⟩ => ?_
    omega
  · exact ⟨_, execStartEdge_hunting hunting mark, rfl⟩
  · exact ⟨_, execStartCheck_mark starting mark, rfl⟩
  · refine ⟨_, ((receiverTurnsOnAndOff p s).2.1 on), ?_⟩
    cases p <;> rfl

theorem exec_transmitOn (p : Port) (s : State) :
    exec (.transmitOn p) s = .next (kick ((s.setLine { s.line with txEnable := true }.pass).answer p ⟨0x13, .done, none, []⟩)) := rfl

/-- A character is in flight and nothing is typed: what TRANSMIT ON hands to kick stands. -/
theorem exec_transmitOn_inFlight (p : Port) {s : State} {l : LineUnit} {k : TxChar} (pass : { s.line with txEnable := true }.pass = l)
    (busy : l.txChar = some k) (empty : s.kb.typeahead = []) (absent : .keyboard ∉ l.requests) :
    exec (.transmitOn p) s = .next ((s.setLine l).answer p ⟨0x13, .done, none, []⟩) := by
  have engaged : (s.setLine l).Engaged := engaged_inFlight busy empty absent
  rw [exec_transmitOn, pass, kick_engaged (answer_engaged engaged p _)]

theorem exec_releaseIntervalExpiry {s : State} {n : Nat} (running : s.line.releaseRun = some n) (own : s.line.holder = some .keyboard) :
    exec .releaseIntervalExpiry s = .next (kick (s.setLine { s.line with releaseRun := none, holder := none }.pass)) := by
  change execReleaseIntervalExpiry s = _
  rw [execReleaseIntervalExpiry, if_pos (by rw [running]; rfl), LineUnit.release_own (by exact own), if_pos rfl]

theorem exec_releaseIntervalExpiry_inFlight {s : State} {l : LineUnit} {n : Nat} {k : TxChar} (running : s.line.releaseRun = some n)
    (own : s.line.holder = some .keyboard) (pass : { s.line with releaseRun := none, holder := none }.pass = l)
    (busy : l.txChar = some k) (empty : s.kb.typeahead = []) (absent : .keyboard ∉ l.requests) :
    exec .releaseIntervalExpiry s = .next (s.setLine l) := by
  have engaged : (s.setLine l).Engaged := engaged_inFlight busy empty absent
  rw [exec_releaseIntervalExpiry running own, pass, kick_engaged engaged]

/-- While transmit enable is OFF a request takes no grant (R39). -/
theorem settleKeyboard_disabled {s : State} (disabled : s.line.txEnable = false) :
    (settleKeyboard s).line.txEnable = false ∧ (settleKeyboard s).line.holder = s.line.holder
    ∧ (settleKeyboard s).line.txChar = s.line.txChar ∧ (settleKeyboard s).line.abState = s.line.abState := by
  unfold settleKeyboard
  split_ifs
  · unfold request LineUnit.request
    split_ifs
    · exact ⟨disabled, rfl, rfl, rfl⟩
    · rw [LineUnit.pass_kept (by exact .inr (.inl disabled))]
      exact ⟨disabled, rfl, rfl, rfl⟩
  · exact ⟨disabled, rfl, rfl, rfl⟩

theorem kick_disabled {s : State} (disabled : s.line.txEnable = false) (free : s.line.txChar = none) (ab : s.line.abState ≠ .sending) :
    (kick s).line.txChar = none ∧ (kick s).line.holder = s.line.holder := by
  obtain ⟨enable, holder, char, answer⟩ := settleKeyboard_disabled disabled
  have idle : takeNext (settleKeyboard s) = settleKeyboard s := takeNext_disabled enable (answer ▸ ab)
  obtain ⟨_, holder', char', _⟩ := settleKeyboard_disabled enable
  have : kick s = settleKeyboard (settleKeyboard s) := by
    unfold kick
    rw [if_pos (char.trans free), idle]
  rw [this]
  exact ⟨char'.trans (char.trans free), holder'.trans holder⟩

/-- Settles O20. -/
theorem theGrantPasses : Obligations.TheGrantPasses := by
  refine ⟨LineUnit.request_asked, fun l => ⟨fun q qs => LineUnit.pass_given, LineUnit.pass_kept⟩,
    fun l r => ⟨rfl, fun other => ⟨LineUnit.release_other other, LineUnit.leave_other other, fun absent => ?_⟩, fun own =>
      ⟨LineUnit.release_own own, fun q qs enabled rate list => ?_, fun kept => ?_⟩⟩,
    fun p s => ⟨rfl, leaves_of_kick (exec_transmitOn p s), fun r rs free rate list => ?_,
      fun r rs k free rate list busy empty absent => ?_, fun k kept busy empty absent => ?_⟩,
    fun s disabled free ab => ?_, fun s => ⟨fun n running own => ⟨leaves_of_kick (exec_releaseIntervalExpiry running own),
      fun r rs k enabled rate list busy empty absent => ?_, fun k kept busy empty absent => ?_⟩, fun stopped => ?_⟩⟩
  · rw [LineUnit.leave_other other, LineUnit.withdraw_absent absent]
  · rw [LineUnit.leave_own own]
    exact LineUnit.pass_given rfl enabled rate list
  · rw [LineUnit.leave_own own]
    exact LineUnit.pass_kept (.inr kept)
  · exact LineUnit.pass_given free rfl rate list
  · exact exec_transmitOn_inFlight p (LineUnit.pass_given free rfl rate list) busy empty absent
  · refine exec_transmitOn_inFlight p (LineUnit.pass_kept ?_) busy empty absent
    exact kept.imp_right .inr
  · obtain ⟨char, holder⟩ := kick_disabled disabled free ab
    exact ⟨char, fun none => holder.trans none⟩
  · exact exec_releaseIntervalExpiry_inFlight running own (LineUnit.pass_given rfl enabled rate list) busy empty absent
  · exact exec_releaseIntervalExpiry_inFlight running own (LineUnit.pass_kept (.inr kept)) busy empty absent
  · change execReleaseIntervalExpiry s = _
    rw [execReleaseIntervalExpiry, if_neg (by rw [stopped]; decide)]

/-! ## Settings and rates (R20, R21) -/

/-- A rate change may be made now. -/
theorem LineUnit.rateFree_iff (l : LineUnit) :
    l.rateFree = true ↔ (l.rx = .hunting ∨ l.rx = .off) ∧ l.txChar = none ∧ l.abState ≠ .sending := by
  simp [LineUnit.rateFree, and_assoc]

theorem LineUnit.configure_rateOnly (l : LineUnit) : l.configure 1 0 0 0 0 0 0 = l := rfl

/-- CONFIGURE LINE with a rate alone (R20). -/
theorem exec_configureLine_rate (p : Port) {rate : Byte} (h : rate.toNat ≤ 5) (ms : Nat) (s : State) :
    exec (.configureLine p 1 rate 0 0 0 0 0 0 ms) s = .next (kick (
      if (takeRate rate.toNat s).2 then
        (takeRate rate.toNat s).1.answer p ⟨0x10, .started, none, (takeRate rate.toNat s).1.line.settingBytes⟩
      else (takeRate rate.toNat s).1.answer p ⟨0x10, .done, none, (takeRate rate.toNat s).1.line.settingBytes⟩)) := by
  have fine : lineRefused 1 rate 0 0 0 = false := by
    simp [lineRefused, present, h]
  change execConfigureLine p 1 rate 0 0 0 0 0 0 ms s = _
  rw [execConfigureLine, if_neg (by rw [fine]; decide)]
  rfl

/-- Settles O18. -/
theorem ratesChangeBetweenCharacters : Obligations.RatesChangeBetweenCharacters := by
  intro p rate ms s h
  have ran := exec_configureLine_rate p h ms s
  refine ⟨fun same => ⟨_, rfl, leaves_of_kick ?_⟩, fun other free => leaves_of_kick ?_, fun other busy => ⟨_, rfl, leaves_of_kick ?_⟩,
    fun r pending free => leaves_of_kick ?_, fun kept => ?_⟩
  · rw [ran, takeRate, if_pos same]
    rfl
  · rw [ran, takeRate, if_neg other, if_pos (s.line.rateFree_iff.mpr free)]
    rfl
  · rw [ran, takeRate, if_neg other, if_neg (fun free => busy (s.line.rateFree_iff.mp free))]
    rfl
  · change execLineRate s = _
    rw [execLineRate, pending]
    exact if_pos (s.line.rateFree_iff.mpr free)
  · change execLineRate s = _
    rw [execLineRate]
    cases pending : s.line.pendingRate with
    | none => rfl
    | some r =>
      have busy := kept.resolve_left (by rw [pending]; exact Option.some_ne_none r)
      exact if_neg fun free => busy (s.line.rateFree_iff.mp free)

/-! ## The line break (R26) -/

/-- A hold, with what the channel has to report (R120). -/
theorem holdChan_eq (c : Chan) (why : HoldReason) (s : State) : ∃ rep, holdChan c why s = (s.heldFor c why, rep)
    ∧ (rep = none ∨ ∃ w, s.chan c = some w ∧ rep = reportOf w (.held why)) := by
  unfold holdChan State.heldFor
  cases at_c : s.chan c with
  | none => exact ⟨_, rfl, .inl rfl⟩
  | some w =>
    dsimp only
    cases w.phase with
    | held _ => exact ⟨_, rfl, .inl rfl⟩
    | _ => exact ⟨_, Prod.ext (by cases c <;> rfl) rfl, .inr ⟨w, rfl, rfl⟩⟩

/-- The sequencer hears of a hold nothing that it acts on: it did not start the channel, or follows none (a drain stands, R180). -/
theorem told_held_quiet {c : Chan} {why : HoldReason} {s : State} {rep : Option Report}
    (h : rep = none ∨ ∃ w : ChanWork, rep = reportOf w (.held why) ∧ ((∃ p, w.starter = .port p) ∨ s.calls.auto = none ∧ s.calls.coll = none)) :
    told c (s, rep) = s := by
  rcases h with rfl | ⟨w, rfl, ⟨p, port⟩ | ⟨auto, coll⟩⟩
  · rfl
  · rw [reportOf, port]
    rfl
  · unfold reportOf told
    split_ifs
    · unfold seqReport
      dsimp only
      rw [auto, coll]
      dsimp only [Option.bind_none]
      cases s.calls.drain with
      | none => rfl
      | some n => exact ite_self s
    · rfl

theorem State.heldFor_calls (s : State) (c : Chan) (why : HoldReason) : (s.heldFor c why).calls = s.calls := by
  unfold State.heldFor
  split
  · rfl
  · split
    · rfl
    · cases c <;> rfl

theorem State.heldFor_other {c d : Chan} (h : d ≠ c) (s : State) (why : HoldReason) : (s.heldFor c why).chan d = s.chan d := by
  unfold State.heldFor
  split
  · rfl
  · split
    · rfl
    · cases c <;> cases d <;> first | exact absurd rfl h | rfl

theorem told_held {s : State} {c : Chan} {why : HoldReason}
    (unheeded : (∀ w, s.chan c = some w → ∃ p, w.starter = .port p) ∨ s.calls.auto = none ∧ s.calls.coll = none) :
    told c (holdChan c why s) = s.heldFor c why := by
  obtain ⟨rep, eq, from_chan⟩ := holdChan_eq c why s
  rw [eq]
  refine told_held_quiet (from_chan.imp_right fun ⟨w, at_c, rep⟩ => ⟨w, rep, ?_⟩)
  rw [State.heldFor_calls]
  exact unheeded.imp_left fun by_port => by_port w at_c

theorem holdBoth_unheeded {s : State} (h : s.Unheeded) (why : HoldReason) : holdBoth why s = (s.heldFor .ch0 why).heldFor .ch1 why := by
  unfold holdBoth
  dsimp only
  rw [told_held (h.imp_left fun by_port w => by_port .ch0 w), told_held]
  rw [State.heldFor_calls, State.heldFor_other (by decide)]
  exact h.imp_left fun by_port w => by_port .ch1 w

theorem declareBreak_unheeded {s : State} (h : s.Unheeded) : declareBreak s = s.broken := by
  have told : (post .breakDetected (s.setLine { s.line with breakDeclared := true })).Unheeded := h
  unfold declareBreak State.broken
  rw [holdBoth_unheeded told]
  dsimp only
  generalize ((post .breakDetected (s.setLine { s.line with breakDeclared := true })).heldFor .ch0 .lineBreak).heldFor .ch1 .lineBreak = u
  by_cases idle : u.calls.state = .idle
  · have unguarded : (u.calls.breakGuardT || decide (u.calls.state ≠ .idle)) = u.calls.breakGuardT := by simp [idle]
    rw [if_pos idle, unguarded]
    rfl
  · have guarded : (u.calls.breakGuardT || decide (u.calls.state ≠ .idle)) = true := by simp [idle]
    rw [if_neg idle, guarded]
    rfl

theorem declareBreak_idle {s : State} (ch0 : s.ch0 = none) (ch1 : s.ch1 = none) :
    declareBreak s = post .breakDetected { s with
      line := { s.line with breakDeclared := true, txCase := .unknown }
      calls := { s.calls with breakGuardT := s.calls.breakGuardT || decide (s.calls.state ≠ .idle) } } := by
  have unheeded : s.Unheeded := .inl fun ch w at_ch => by cases ch <;> simp [State.chan, ch0, ch1] at at_ch
  rw [declareBreak_unheeded unheeded]
  simp [State.broken, State.heldFor, State.chan, ch0, ch1, post, State.setLine]

theorem State.heldFor_engaged {s : State} (h : s.Engaged) (c : Chan) (why : HoldReason) : (s.heldFor c why).Engaged := by
  unfold State.heldFor
  split
  · exact h
  · split
    · exact h
    · refine h.of ?_ ?_ ?_ <;> cases c <;> first | rfl | exact LineUnit.leave_engaged_fields _ _ | exact LineUnit.leave_sublist _ _

theorem State.broken_engaged {s : State} (h : s.Engaged) : s.broken.Engaged := by
  have told : (post .breakDetected (s.setLine { s.line with breakDeclared := true })).Engaged := h
  exact State.heldFor_engaged (State.heldFor_engaged told .ch0 .lineBreak) .ch1 .lineBreak

/-- Settles O27. -/
theorem breaksAreDeclaredAndEnd : Obligations.BreaksAreDeclaredAndEnd := by
  have due {s : State} (spacing : s.line.rx = .spacingHold) (undeclared : s.line.breakDeclared = false) :
      exec .lineBreak s = .next (kick (declareBreak s)) := if_pos ⟨spacing, undeclared⟩
  refine ⟨fun s => ⟨fun spacing undeclared ch0 ch1 => leaves_of_kick ?_, fun spacing undeclared unheeded => ?_, fun other => ?_⟩,
    fun s space => ⟨fun spacing undeclared => ?_, fun spacing declared => ?_, fun other => ?_⟩⟩
  · rw [due spacing undeclared, declareBreak_idle ch0 ch1]
  · have ran := due spacing undeclared
    rw [declareBreak_unheeded unheeded] at ran
    exact ⟨leaves_of_kick ran, fun engaged => exec_engaged ran (State.broken_engaged engaged)⟩
  · refine if_neg fun ⟨spacing, undeclared⟩ => ?_
    rcases other with ne | declared
    · exact ne spacing
    · rw [undeclared] at declared
      cases declared
  · change execMarkReturn s = _
    rw [execMarkReturn, if_neg (by simp [spacing, space, RxState.timing]), if_pos spacing, if_neg (by rw [undeclared]; decide), ← undeclared]
    rfl
  · change execMarkReturn s = _
    rw [execMarkReturn, if_neg (by simp [spacing, space, RxState.timing]), if_pos spacing, if_pos declared]
    rfl
  · change execMarkReturn s = _
    rw [execMarkReturn, if_neg (by rcases other with h | h <;> simp [h, space, RxState.timing]),
      if_neg (by rcases other with h | h <;> rw [h] <;> decide)]
    rfl

/-- The settings that CONFIGURE LINE refuses (R21, R192). -/
theorem lineRefused_iff (presence rate stop tx rx : Byte) : lineRefused presence rate stop tx rx = true ↔
    (presence.getLsbD 0 = true ∧ 5 < rate.toNat)
      ∨ (presence.getLsbD 1 = true ∧ stop.toNat ≠ 64 ∧ stop.toNat ≠ 96 ∧ stop.toNat ≠ 128)
      ∨ (presence.getLsbD 4 = true ∧ 1 < tx.toNat) ∨ (presence.getLsbD 5 = true ∧ 1 < rx.toNat) := by
  have on_off : ∀ b : Byte, (onOff b).isNone = true ↔ 1 < b.toNat := by decide
  have stops : ∀ b : Byte, (!(b == 64 || b == 96 || b == 128)) = true ↔ b.toNat ≠ 64 ∧ b.toNat ≠ 96 ∧ b.toNat ≠ 128 := by decide
  simp only [lineRefused, present, Bool.or_eq_true, Bool.and_eq_true, decide_eq_true_eq, on_off, stops, or_assoc]

theorem State.heldFor_line (s : State) (c : Chan) (why : HoldReason) : (s.heldFor c why).line.still = s.line.still := by
  unfold State.heldFor
  split
  · rfl
  · split
    · rfl
    · cases c <;> exact LineUnit.leave_still _ _

/-- The settings stand in the still part of the Line Unit. -/
theorem LineUnit.settingBytes_still {l m : LineUnit} (h : l.still = m.still) : l.settingBytes = m.settingBytes := by
  change l.still.settingBytes = m.still.settingBytes
  rw [h]

theorem State.broken_settingBytes (s : State) : s.broken.line.settingBytes = s.line.settingBytes := by
  have first : ((post .breakDetected (s.setLine { s.line with breakDeclared := true })).heldFor .ch0 .lineBreak).line.settingBytes
      = s.line.settingBytes := (LineUnit.settingBytes_still (State.heldFor_line _ .ch0 .lineBreak)).trans rfl
  exact (LineUnit.settingBytes_still (State.heldFor_line _ .ch1 .lineBreak)).trans first

/-- CONFIGURE LINE without a rate, none of whose settings is refused (R21). -/
theorem exec_configureLine_settings (p : Port) {presence rate stop tx rx : Byte} (brk : Half) (thr rel : Byte) (ms : Nat) (s : State)
    (fine : lineRefused presence rate stop tx rx = false) (no_rate : presence.getLsbD 0 = false) {l : LineUnit}
    (stored : s.line.configure presence stop brk thr tx rx rel = l) :
    exec (.configureLine p presence rate stop brk thr tx rx rel ms) s =
      .next (kick (if breakOverdue presence ms l then
        (declareBreak (s.setLine l)).answer p ⟨0x10, .done, none, (declareBreak (s.setLine l)).line.settingBytes⟩
        else (s.setLine l).answer p ⟨0x10, .done, none, l.settingBytes⟩)) := by
  change execConfigureLine p presence rate stop brk thr tx rx rel ms s = _
  rw [execConfigureLine, if_neg (by rw [fine]; decide), stored, present, no_rate]
  simp only [Bool.false_eq_true, if_false, State.setLine_line]
  congr 2
  split_ifs <;> rfl

theorem onOff_getD : ∀ b : Byte, b.toNat ≤ 1 → onOff b = some (b == 1) := by decide

/-- The settings stored, written out (R21). -/
theorem LineUnit.configure_eq (l : LineUnit) {presence rate stop tx rx : Byte} (brk : Half) (thr rel : Byte)
    (fine : lineRefused presence rate stop tx rx = false) : l.configure presence stop brk thr tx rx rel = { l with
      stopLen := if presence.getLsbD 1 then stop.toNat else l.stopLen
      breakMs := if presence.getLsbD 2 then max 100 (min 2000 brk.toNat) / 10 * 10 else l.breakMs
      threshold := if presence.getLsbD 3 then min 50 thr.toNat else l.threshold
      txUsos := if presence.getLsbD 4 then tx == 1 else l.txUsos
      rxUsos := if presence.getLsbD 5 then rx == 1 else l.rxUsos
      releaseTenths := if presence.getLsbD 6 then max 1 (min 50 rel.toNat) else l.releaseTenths } := by
  have range (n : Nat) (b : Byte) (bad : presence.getLsbD n = true → ¬ 1 < b.toNat) (old : Bool) :
      (if present presence n then (onOff b).getD old else old) = if presence.getLsbD n then b == 1 else old := by
    unfold present
    split_ifs with given
    · rw [onOff_getD b (by have := bad given; omega)]
      rfl
    · rfl
  have accepted := mt (lineRefused_iff presence rate stop tx rx).mpr (by rw [fine]; decide)
  rw [LineUnit.configure, range 4 tx fun given high => accepted (.inr (.inr (.inl ⟨given, high⟩))),
    range 5 rx fun given high => accepted (.inr (.inr (.inr ⟨given, high⟩)))]
  simp only [clamp, Nat.zero_max]
  rfl

/-- Settles O17. -/
theorem lineSettingsAreStored : Obligations.LineSettingsAreStored := by
  intro p presence rate stop brk thr tx rx rel ms s
  dsimp only
  rw [← lineRefused_iff]
  refine ⟨fun bad => ?_, fun good no_rate quiet => ?_, fun good no_rate given spacing undeclared due unheeded => ?_⟩
  · change execConfigureLine p presence rate stop brk thr tx rx rel ms s = _
    rw [execConfigureLine, if_pos bad]
    rfl
  all_goals
    have fine := Bool.eq_false_iff.mpr good
    have ran := exec_configureLine_settings p brk thr rel ms s fine no_rate (s.line.configure_eq brk thr rel fine)
  · refine leaves_of_kick (ran.trans ?_)
    rw [if_neg]
    · rfl
    · simp only [breakOverdue, present, Bool.and_eq_true, beq_iff_eq, Bool.not_eq_true', decide_eq_true_eq]
      rintro ⟨⟨⟨given, spacing⟩, undeclared⟩, due⟩
      rcases quiet with absent | other | declared | early
      · rw [given] at absent; cases absent
      · exact other spacing
      · rw [undeclared] at declared; cases declared
      · exact absurd due (Nat.not_le.mpr early)
  · rw [if_pos (by simp [breakOverdue, present, given, spacing, undeclared]; simpa [given] using due),
      declareBreak_unheeded (by exact unheeded), State.broken_settingBytes] at ran
    exact ⟨leaves_of_kick ran, fun engaged => exec_engaged ran (answer_engaged (State.broken_engaged (by exact engaged)) p _)⟩

end Sys2Proof.Machine
end

section
-- One proof is elaborated at a time: the threads of many at once do not fit the memory a check allows.
set_option Elab.async false

/-! SUPPORT. What the transmitter takes (R34, R35, R43) and its SENT copy (R16, R66, R67); the routing table, the trigger table and the
key map; and the keys of a scan. -/

namespace Sys2Proof.Machine

/-! ## The SENT copy of a character (R61, R66, R67) -/

/-- A printer takes a symbol offered by a source that does not wait, or loses it (R66, R67). -/
def State.printed (s : State) (b : Bool) (y : Symbol) : State :=
  { s with
    printer := if b && s.printer.offer == .takes then s.printer.accept y else s.printer
    sPort := { s.sPort with flags := { s.sPort.flags with printLost := s.sPort.flags.printLost || (b && s.printer.offer != .takes) } }
    xPort := { s.xPort with flags := { s.xPort.flags with printLost := s.xPort.flags.printLost || (b && s.printer.offer != .takes) } } }

/-- A punch takes a symbol offered by a source that does not wait, or loses it (R66, R67). -/
def State.punched (s : State) (b : Bool) (y : Symbol) : State :=
  { s with
    punch := if b && s.punch.offer == .takes then s.punch.accept y else s.punch
    sPort := { s.sPort with flags := { s.sPort.flags with punchLost := s.sPort.flags.punchLost || (b && s.punch.offer != .takes) } }
    xPort := { s.xPort with flags := { s.xPort.flags with punchLost := s.xPort.flags.punchLost || (b && s.punch.offer != .takes) } } }

theorem offerPrinter_eq (b : Bool) (y : Symbol) (s : State) :
    (if b then offerPrinter y s else (s, false)) = (s.printed b y, b && s.printer.offer != .takes) := by
  cases b with
  | false => simp only [State.printed, Bool.false_and, Bool.or_false]; rfl
  | true =>
    by_cases takes : s.printer.offer = .takes
    · simp [offerPrinter, State.printed, takes, State.setPrinter]
    · simp [offerPrinter, State.printed, takes, setFlag, Flags.set]

theorem offerPunch_eq (b : Bool) (y : Symbol) (s : State) :
    (if b then offerPunch y s else (s, false)) = (s.punched b y, b && s.punch.offer != .takes) := by
  cases b with
  | false => simp only [State.punched, Bool.false_and, Bool.or_false]; rfl
  | true =>
    by_cases takes : s.punch.offer = .takes
    · simp [offerPunch, State.punched, takes, State.setPunch]
    · simp [offerPunch, State.punched, takes, setFlag, Flags.set]

/-- The idle timer starts afresh in a call (R173). -/
theorem restartIdle_eq (s : State) : restartIdle s = { s with calls := { s.calls with
    idleT := if s.calls.state = .incoming ∨ s.calls.state = .outgoing then some s.calls.idle else s.calls.idleT } } := by
  unfold restartIdle
  split_ifs <;> rfl

/-- The owed marks of R67 reach the directory alone. -/
theorem markOwed_eq (print punch : Bool) (s : State) : markOwed print punch s = { s with store := match s.store.slotLine with
    | none => s.store
    | some n => { s.store with directory := s.store.directory.map fun q => if q.number = n then
        { q with printOwed := q.printOwed || print, punchOwed := q.punchOwed || punch } else q } } := by
  unfold markOwed
  split
  · next open' => rw [open']; rfl
  · next open' => rw [open']

/-- The SENT row's delivery is what R61, R66 and R67 give. -/
theorem sentDeliver_eq (y : Symbol) (s : State) : sentDeliver y s = s.copied y := by
  unfold sentDeliver
  dsimp only
  rw [offerPrinter_eq]
  dsimp only
  rw [offerPunch_eq, markOwed_eq, restartIdle_eq]
  rfl

/-- The tracker after a code, written out (R7, R15). -/
theorem putChar_eq (inserted : Bool) (code : BitVec 5) (y : Symbol) (s : State) : putChar inserted code y s =
    (s.setLine { s.line with
      txChar := some ⟨code, s.line.stopLen, inserted⟩
      txCase := caseAfter s.line.txUsos s.line.txCase code }).copied (sentSymbol inserted code y) := sentDeliver_eq _ _

theorem copied_line (s : State) (y : Symbol) : (s.copied y).line = s.line := rfl
theorem copied_kb (s : State) (y : Symbol) : (s.copied y).kb = s.kb := rfl
theorem copied_dist (s : State) (y : Symbol) : (s.copied y).dist = s.dist := rfl

/-- With nothing in the SENT row, no call and no received message open, the copy changes nothing. -/
theorem copied_nowhere {s : State} (row : s.dist.rowSent = ⟨false, false, false, false⟩) (idle : s.calls.state = .idle)
    (closed : s.store.slotLine = none) (y : Symbol) : s.copied y = s := by
  have no_call : ¬ (s.calls.state = .incoming ∨ s.calls.state = .outgoing) := by simp [idle]
  simp only [State.copied, row, closed, Bool.false_and, Bool.or_false, if_neg no_call]
  rfl

/-! ## The end of a character (R34, R35, R43) -/

/-- KEYBOARD holds the grant or stands in the list: it has its place in the arbiter (R53). -/
theorem settleKeyboard_known {s : State} (waiting : s.kb.typeahead ≠ []) (row : (keyboardRow s).transmitter = true)
    (known : s.line.holder = some .keyboard ∨ .keyboard ∈ s.line.requests) : settleKeyboard s = s := by
  rw [settleKeyboard, if_pos ⟨waiting, row⟩, request, LineUnit.request, if_pos known]
  rfl

theorem settleKeyboard_empty {s : State} (empty : s.kb.typeahead = []) :
    settleKeyboard s = s.setLine (s.line.withdraw .keyboard) := if_neg fun h => h.1 empty

/-- A free transmitter looks for a character (R35). -/
theorem kick_free {s : State} (free : s.line.txChar = none) (settled : settleKeyboard s = s) :
    kick s = settleKeyboard (takeNext s) := by
  unfold kick
  rw [settled, if_pos free]

/-- The next symbol of answer-back text, or its shift (R43). -/
theorem takeText_eq {s : State} {y : Symbol} {ys : List Symbol} (text : s.line.abText = y :: ys) :
    takeText s = (s.setLine { s.line with
      txChar := some ⟨(emission s.line.txCase y).2, s.line.stopLen, (emission s.line.txCase y).1⟩
      txCase := caseAfter s.line.txUsos s.line.txCase (emission s.line.txCase y).2
      abText := if (emission s.line.txCase y).1 then y :: ys else ys
      abSent := if (emission s.line.txCase y).1 then s.line.abSent else s.line.abSent + 1 }).copied
        (sentSymbol (emission s.line.txCase y).1 (emission s.line.txCase y).2 y) := by
  rw [takeText, text]
  dsimp only
  cases shift : (emission s.line.txCase y).1 with
  | true =>
    rw [if_pos rfl, if_pos rfl, if_pos rfl, putChar_eq, ← text]
  | false =>
    rw [if_neg (by decide), if_neg (by decide), if_neg (by decide), putChar_eq]
    rfl

/-- A row of TRANSMITTER alone refuses nothing, and its other sinks take nothing. -/
theorem offerHead_transmitter {s : State} (row : keyboardRow s = ⟨true, false, false, false⟩) : offerHead s = s := by
  rw [offerHead, if_neg (fun h => ?_)]
  rw [row] at h
  exact absurd h.2 (by simp [keyboardRefused, sinksPermanent])

/-- The head y of the typeahead, or the shift before it, on the line; ys follow it (R12, R34, R40). -/
def State.sendsHead (s : State) (y : Symbol) (ys : List Symbol) : State :=
  { s with
    line := { s.line with
      txChar := some ⟨(emission s.line.txCase y).2, s.line.stopLen, (emission s.line.txCase y).1⟩
      txCase := caseAfter s.line.txUsos s.line.txCase (emission s.line.txCase y).2
      releaseRun := if (emission s.line.txCase y).1 = false ∧ ys = [] then some s.line.releaseTenths else s.line.releaseRun }
    kb := { s.kb with typeahead := if (emission s.line.txCase y).1 then y :: ys else ys } }

/-- The keyboard's head leaves for the transmitter alone, or its shift does (R35, R40, R53). -/
theorem takeKeyboard_eq {s : State} {y : Symbol} {ys : List Symbol} (head : s.kb.typeahead = y :: ys)
    (row : keyboardRow s = ⟨true, false, false, false⟩) (own : s.line.holder = some .keyboard) :
    takeKeyboard s = (s.sendsHead y ys).copied (sentSymbol (emission s.line.txCase y).1 (emission s.line.txCase y).2 y) := by
  have takes : ((keyboardRow s).transmitter && keyboardReady (keyboardRow s) s) = true := by
    rw [row]
    simp [keyboardReady, sinksReady]
  rw [takeKeyboard, head, State.sendsHead]
  dsimp only
  rw [if_pos takes]
  cases shift : (emission s.line.txCase y).1 with
  | true =>
    rw [if_pos rfl, if_pos rfl, if_neg (fun h => Bool.noConfusion h.1), putChar_eq, ← head]
    rfl
  | false =>
    have left : keyboardLeave (keyboardRow s) y ys s = { s with
        line := { s.line with releaseRun := if ys = [] then some s.line.releaseTenths else s.line.releaseRun }
        kb := { s.kb with typeahead := ys } } := by
      have released : startRelease (s.setKb { s.kb with typeahead := ys }) = { s with
          line := { s.line with releaseRun := if ys = [] then some s.line.releaseTenths else s.line.releaseRun }
          kb := { s.kb with typeahead := ys } } := by
        unfold startRelease
        by_cases last : ys = []
        · rw [if_pos ⟨last, own⟩, if_pos last]; rfl
        · rw [if_neg fun h => last h.1, if_neg last]; rfl
      rw [keyboardLeave, row, released]
      rfl
    simp only [Bool.false_eq_true, if_false, true_and]
    rw [left, putChar_eq, offerHead_transmitter]
    · rfl
    · exact row

theorem exec_characterEnd {s : State} {k : TxChar} (busy : s.line.txChar = some k) : exec .characterEnd s = .next (charEnd s) :=
  if_pos (by rw [busy]; rfl)

theorem charEnd_kick {s : State} (more : s.line.abState ≠ .sending ∨ s.line.abText ≠ []) :
    charEnd s = kick (s.setLine { s.line with txChar := none }) := if_neg fun h => more.elim (· h.1) (· h.2)

theorem sentSymbol_eq (inserted : Bool) (code : BitVec 5) (y : Symbol) :
    sentSymbol inserted code y = if inserted = true ∨ y.mutilated = true then ⟨code, .neutral, false⟩ else y := rfl

/-- The keyboard's head, or its shift, at the end of a character (R34, R35, R53). -/
theorem charEnd_typed {s : State} {y : Symbol} {ys : List Symbol} (head : s.kb.typeahead = y :: ys) (mode : s.kb.mode = .line)
    (row : s.dist.rowLine = ⟨true, false, false, false⟩) (own : s.line.holder = some .keyboard) (ab : s.line.abState = .none)
    (enabled : s.line.txEnable = true) (rate : s.line.pendingRate = none) :
    charEnd s = settleKeyboard ((s.sendsHead y ys).copied
      (sentSymbol (emission s.line.txCase y).1 (emission s.line.txCase y).2 y)) := by
  have row' : keyboardRow (s.setLine { s.line with txChar := none }) = ⟨true, false, false, false⟩ := by
    rw [keyboardRow, State.setLine_kb, mode]
    exact row
  have waits : (s.setLine { s.line with txChar := none }).kb.typeahead ≠ [] := by
    rw [State.setLine_kb, head]
    exact List.cons_ne_nil _ _
  have next : takeNext (s.setLine { s.line with txChar := none }) = takeKeyboard (s.setLine { s.line with txChar := none }) := by
    simp only [takeNext, takeHolder, State.setLine_line, ab, own, enabled, rate, and_self, if_true]
  rw [charEnd_kick (.inl (by rw [ab]; decide)), kick_free rfl (settleKeyboard_known waits (by rw [row']) (.inl own)), next,
    takeKeyboard_eq (by exact head) row' (by exact own)]
  rfl

/-- KEYBOARD, holding the grant in LINE mode with TRANSMITTER in its row, keeps it, and stands in no list where nothing is typed. -/
theorem settleKeyboard_own {t : State} (mode : t.kb.mode = .line) (row : t.dist.rowLine = ⟨true, false, false, false⟩)
    (own : t.line.holder = some .keyboard) :
    settleKeyboard t = if t.kb.typeahead = [] then t.setLine (t.line.withdraw .keyboard) else t := by
  split_ifs with empty
  · exact settleKeyboard_empty empty
  · refine settleKeyboard_known empty ?_ (.inl own)
    rw [keyboardRow, mode]
    exact congrArg SinkSet.transmitter row

/-- A shift is LETTERS or FIGURES, and the tracker follows it (R12). -/
theorem caseAfter_shift {usos : Bool} {c : Case3} {y : Symbol} (shift : (emission c y).1 = true) :
    caseAfter usos c (emission c y).2 = if (emission c y).2 = 31 then .letters else .figures := by
  have code : (emission c y).2 = 31 ∨ (emission c y).2 = 30 := by
    revert shift
    rcases y with ⟨_, _ | _ | _, _ | _⟩ <;> cases c <;> simp [emission]
  rcases code with h | h <;> rw [h] <;> rfl

/-- Answer-back text goes on, or begins, at the end of a character, with nothing typed (R35, R43). -/
theorem charEnd_text {s : State} (empty : s.kb.typeahead = []) (absent : .keyboard ∉ s.line.requests)
    (more : s.line.abState ≠ .sending ∨ s.line.abText ≠ []) {t : State} {y : Symbol} {ys : List Symbol}
    (next : takeNext (s.setLine { s.line with txChar := none }) = takeText t) (text : t.line.abText = y :: ys)
    (kb : t.kb = s.kb) (requests : t.line.requests = s.line.requests) :
    charEnd s = (t.setLine { t.line with
      txChar := some ⟨(emission t.line.txCase y).2, t.line.stopLen, (emission t.line.txCase y).1⟩
      txCase := caseAfter t.line.txUsos t.line.txCase (emission t.line.txCase y).2
      abText := if (emission t.line.txCase y).1 then y :: ys else ys
      abSent := if (emission t.line.txCase y).1 then t.line.abSent else t.line.abSent + 1 }).copied
        (sentSymbol (emission t.line.txCase y).1 (emission t.line.txCase y).2 y) := by
  rw [charEnd_kick more, kick_free rfl (settleKeyboard_absent (by exact empty) (by exact absent)), next, takeText_eq text,
    settleKeyboard_absent]
  · exact kb ▸ empty
  · exact requests ▸ absent

/-- Settles O28. -/
theorem charactersFollowOneAnother : Obligations.CharactersFollowOneAnother := by
  intro s k busy
  have ran := exec_characterEnd busy
  refine ⟨fun resting => ?_, fun sending sent auto => leaves_of_kick ?_,
    fun y ys head mode row none_sent idle closed own ab enabled rate => ⟨_, ran, fun shift => ?_, fun shift => ?_⟩,
    fun y ys head mode row own absent ab enabled rate => ?_, fun y ys empty absent => ⟨fun sending text => ?_,
      fun l pending latch text enabled rate => ?_, fun pending kept => ?_⟩⟩
  · have rests : (s.setLine { s.line with txChar := none }).Resting := resting
    rw [ran, charEnd_kick (.inl (by rw [resting.2.2.2]; decide)), kick_resting rests]
    rfl
  · rw [ran, charEnd, if_pos ⟨sending, sent⟩]
    simp only [seqWruAnswered, post_calls, State.setLine_calls, auto]
    rfl
  · have left : charEnd s = s.sendsHead y ys := by
      rw [charEnd_typed head mode row own ab enabled rate, copied_nowhere (by exact none_sent) (by exact idle) (by exact closed),
        settleKeyboard_own (by exact mode) (by exact row) (by exact own), if_neg]
      rw [State.sendsHead, shift]
      exact List.cons_ne_nil y ys
    rw [left, State.sendsHead, caseAfter_shift shift, shift, if_pos rfl, if_neg (fun h => Bool.noConfusion h.1), ← head]
  · have left : charEnd s = if ys = [] then (s.sendsHead y ys).setLine ((s.sendsHead y ys).line.withdraw .keyboard) else s.sendsHead y ys := by
      rw [charEnd_typed head mode row own ab enabled rate, copied_nowhere (by exact none_sent) (by exact idle) (by exact closed),
        settleKeyboard_own (by exact mode) (by exact row) (by exact own)]
      rw [show (s.sendsHead y ys).kb.typeahead = ys by rw [State.sendsHead, shift]; rfl]
    rw [left, State.sendsHead, shift]
    simp only [true_and, Bool.false_eq_true, if_false]
    split_ifs with last
    · exact ⟨rfl, rfl, rfl, own, rfl, rfl⟩
    · exact ⟨rfl, rfl, rfl, own, rfl, rfl⟩
  · rw [ran, charEnd_typed head mode row own ab enabled rate, settleKeyboard_own (by exact mode) (by exact row) (by exact own)]
    have kept : (s.sendsHead y ys).line.withdraw .keyboard = (s.sendsHead y ys).line := LineUnit.withdraw_absent (by exact absent)
    rw [copied_line, kept, show ((s.sendsHead y ys).copied _).setLine (s.sendsHead y ys).line = (s.sendsHead y ys).copied _ from rfl, ite_self]
    rfl
  · rw [ran, charEnd_text empty absent (.inr (by rw [text]; exact List.cons_ne_nil y ys))
      (t := s.setLine { s.line with txChar := none }) (by rw [takeNext, State.setLine_line, sending]) text rfl rfl]
    rfl
  · have begins : takeNext (s.setLine { s.line with txChar := none }) = takeText (s.setLine { s.line with
        txChar := none, abState := .sending, abText := y :: ys, abSent := 0 }) := by
      simp only [takeNext, State.setLine_line, State.setLine_ident, pending, enabled, rate, latch, Option.map_some, text]
      rfl
    rw [ran, charEnd_text empty absent (.inl (by rw [pending]; decide)) begins rfl rfl rfl]
    simp only [State.setLine_line, Nat.zero_add]
    rfl
  · have stays : takeNext (s.setLine { s.line with txChar := none }) = s.setLine { s.line with txChar := none } := by
      rw [takeNext, State.setLine_line, pending]
      refine if_neg fun h => ?_
      rcases kept with off | changing
      · exact absurd (off.symm.trans h.1) Bool.false_ne_true
      · exact changing h.2
    rw [ran, charEnd_kick (.inl (by rw [pending]; decide)), kick_free rfl (settleKeyboard_absent (by exact empty) (by exact absent)), stays,
      settleKeyboard_absent (by exact empty) (by exact absent)]
    rfl

/-! ## Symbols as bytes (R5, R191) -/

theorem checkSymbol_passes : ∀ b : Byte, (checkSymbol b).isSome = true ↔ SymbolPasses b := by
  unfold SymbolPasses
  decide

theorem checkSymbol_read : ∀ b : Byte, ∀ y ∈ checkSymbol b, y.wellFormed = true ∧ y.toByte = b ∧ Symbol.ofByte b = y := by decide

theorem Symbol.toByte_injective {y z : Symbol} (h : y.toByte = z.toByte) : y = z := by
  have read (y : Symbol) : Symbol.ofByte? y.toByte = some y := by
    have all : ∀ code : BitVec 5, ∀ cls ∈ [Cls.neutral, .letters, .figures], ∀ m : Bool,
        Symbol.ofByte? (Symbol.toByte ⟨code, cls, m⟩) = some ⟨code, cls, m⟩ := by decide
    obtain ⟨code, cls, m⟩ := y
    exact all code cls (by cases cls <;> decide) m
  exact Option.some_injective _ ((read y).symm.trans ((congrArg _ h).trans (read z)))

theorem checkSymbol_toByte {y : Symbol} (h : y.wellFormed = true) : checkSymbol y.toByte = some y := by
  have all : ∀ code : BitVec 5, ∀ cls ∈ [Cls.neutral, .letters, .figures], ∀ m : Bool, Symbol.wellFormed ⟨code, cls, m⟩ = true →
      checkSymbol (Symbol.toByte ⟨code, cls, m⟩) = some ⟨code, cls, m⟩ := by decide
  obtain ⟨code, cls, m⟩ := y
  exact all code cls (by cases cls <;> decide) m h

theorem checkSymbol_refused {b : Byte} (h : ¬ SymbolPasses b) : checkSymbol b = none := by
  rwa [← checkSymbol_passes, Bool.not_eq_true, Option.isSome_eq_false_iff, Option.isNone_iff_eq_none] at h

/-- The check of R5 on every symbol of a command, all of which pass. -/
theorem checkSymbols_passes {text : List Byte} (h : ∀ b ∈ text, SymbolPasses b) :
    checkSymbols text = some (text.map Symbol.ofByte) ∧ (text.map Symbol.ofByte).map Symbol.toByte = text := by
  induction text with
  | nil => exact ⟨rfl, rfl⟩
  | cons b bs ih =>
    obtain ⟨y, read⟩ := Option.isSome_iff_exists.mp ((checkSymbol_passes b).mpr (h b (by simp)))
    obtain ⟨rest, back⟩ := ih fun c hc => h c (by simp [hc])
    obtain ⟨_, byte, symbol⟩ := checkSymbol_read b y read
    rw [checkSymbols, read, rest, List.map_cons, List.map_cons, back, symbol, byte]
    exact ⟨rfl, rfl⟩

theorem checkSymbols_refused {text : List Byte} (h : ∃ b ∈ text, ¬ SymbolPasses b) : checkSymbols text = none := by
  induction text with
  | nil => simp at h
  | cons b bs ih =>
    rw [checkSymbols]
    obtain ⟨c, inside, fails⟩ := h
    rcases List.mem_cons.mp inside with rfl | later
    · rw [checkSymbol_refused fails]
    · rw [ih ⟨c, later, fails⟩]
      cases checkSymbol b <;> rfl

/-- A position of a pattern as its byte (R75, R191). -/
theorem checkPosition_toByte {q : PatPos} (h : ∀ y, q = .symbol y → y.wellFormed = true ∧ y.kind ≠ .explicitShift ∧ y.kind ≠ .blank) :
    checkPosition q.toByte = some q := by
  cases q with
  | dontCare => rfl
  | symbol y =>
    obtain ⟨formed, shift, blank⟩ := h y rfl
    have read := checkSymbol_toByte formed
    rw [PatPos.toByte, checkPosition, if_neg, read]
    · exact if_neg fun h => h.elim shift blank
    · intro e
      rw [e] at read
      cases read

theorem checkPosition_refused {b : Byte} (not_care : b ≠ 0x7F)
    (h : ∀ y : Symbol, y.wellFormed = true → y.kind ≠ .explicitShift → y.kind ≠ .blank → y.toByte ≠ b) : checkPosition b = none := by
  rw [checkPosition, if_neg not_care]
  cases read : checkSymbol b with
  | none => rfl
  | some y =>
    obtain ⟨formed, byte, _⟩ := checkSymbol_read b y read
    refine if_pos ?_
    by_contra other
    rw [not_or] at other
    exact h y formed other.1 other.2 byte

theorem checkPattern_toByte {ps : List PatPos}
    (h : ∀ y, .symbol y ∈ ps → y.wellFormed = true ∧ y.kind ≠ .explicitShift ∧ y.kind ≠ .blank) :
    checkPattern (ps.map PatPos.toByte) = some ps := by
  induction ps with
  | nil => rfl
  | cons q qs ih =>
    rw [List.map_cons, checkPattern, checkPosition_toByte fun y e => h y (by simp [e]), ih fun y inside => h y (by simp [inside])]

theorem checkPattern_refused {bytes : List Byte} (h : ∃ b ∈ bytes, b ≠ 0x7F ∧ ∀ y : Symbol, y.wellFormed = true →
    y.kind ≠ .explicitShift → y.kind ≠ .blank → y.toByte ≠ b) : checkPattern bytes = none := by
  induction bytes with
  | nil => simp at h
  | cons b bs ih =>
    rw [checkPattern]
    obtain ⟨c, inside, not_care, none⟩ := h
    rcases List.mem_cons.mp inside with rfl | later
    · rw [checkPosition_refused not_care none]
    · rw [ih ⟨c, later, not_care, none⟩]
      cases checkPosition b <;> rfl

/-! ## Triggers and gating (R72, R75) -/

theorem triggerActionOf_index : ∀ a : TriggerAction, triggerActionOf (byteOf a.index) = some a := by
  intro a
  cases a <;> rfl

theorem triggerActionOf_some {b : Byte} (h : b.toNat ≤ 5) : ∃ a, triggerActionOf b = some a := by
  have all : ∀ b : Byte, b.toNat ≤ 5 → (triggerActionOf b).isSome = true := by decide
  exact Option.isSome_iff_exists.mp (all b h)

theorem triggerActionOf_none : ∀ b : Byte, 5 < b.toNat → triggerActionOf b = none := by decide

theorem onOff_none : ∀ b : Byte, 1 < b.toNat → onOff b = none := by decide

theorem exec_setTrigger (p : Port) (entry enable action : Byte) {pattern : List Byte} (short : pattern.length ≤ 8) (s : State) :
    exec (.setTrigger p entry enable action pattern) s = match triggerForms entry enable action pattern with
      | none => .next (s.answer p ⟨0x19, .refused, some .range, []⟩)
      | some e => .next ((s.setDist { s.dist with triggers := s.dist.triggers.set entry.toNat e }).answer p
        ⟨0x19, .done, none, triggerBytes e⟩) := by
  change execSetTrigger p entry enable action pattern s = _
  rw [execSetTrigger, if_neg (by omega)]
  cases triggerForms entry enable action pattern <;> rfl

/-- What R75 refuses. -/
theorem triggerForms_refused {entry enable action : Byte} {bytes : List Byte}
    (h : 3 < entry.toNat ∨ 1 < enable.toNat ∨ 5 < action.toNat ∨ (bytes = [] ∧ enable = 1)
      ∨ ∃ b ∈ bytes, b ≠ 0x7F ∧ ∀ y : Symbol, y.wellFormed = true → y.kind ≠ .explicitShift → y.kind ≠ .blank → y.toByte ≠ b) :
    triggerForms entry enable action bytes = none := by
  unfold triggerForms
  split
  · next en act ps switch act_of pattern =>
    refine if_pos ?_
    rcases h with high | bad | bad | ⟨rfl, rfl⟩ | bad
    · exact .inl high
    · rw [onOff_none _ bad] at switch; cases switch
    · rw [triggerActionOf_none _ bad] at act_of; cases act_of
    · cases pattern
      cases switch
      exact .inr ⟨rfl, rfl⟩
    · rw [checkPattern_refused bad] at pattern; cases pattern
  · rfl

theorem boolOf_not (b : Bool) : boolOf (!b) = if b then 0 else 1 := by cases b <;> rfl

/-- Settles O31. -/
theorem triggersAndGatingAreSet : Obligations.TriggersAndGatingAreSet := by
  refine ⟨fun p entry enable action s => ⟨fun ps act some_pos few low_entry low_enable act_of good => ?_,
    fun low_entry low_action => ?_, fun bytes few bad => ?_⟩, fun p s => ⟨?_, ?_, fun b high => ?_⟩⟩
  · have not_empty : ps ≠ [] := List.ne_nil_of_length_pos some_pos
    have forms : triggerForms entry enable action (ps.map PatPos.toByte) = some (some ⟨enable == 1, ps, act⟩) := by
      rw [triggerForms, onOff_getD enable low_enable, act_of, triggerActionOf_index, checkPattern_toByte good]
      dsimp only
      rw [if_neg fun h => h.elim (Nat.not_lt.mpr low_entry) fun h => not_empty h.1, if_neg not_empty]
    rw [exec_setTrigger p entry enable action (by rwa [List.length_map]) s, forms]
    simp [triggerBytes, runOf]
  · obtain ⟨act, act_of⟩ := triggerActionOf_some low_action
    have forms : triggerForms entry 0 action [] = some none := by
      rw [triggerForms, act_of]
      exact if_neg fun h => h.elim (Nat.not_lt.mpr low_entry) fun h => Bool.false_ne_true h.2
    rw [exec_setTrigger p entry 0 action (pattern := []) (Nat.zero_le 8) s, forms]
    rfl
  · rw [exec_setTrigger p entry enable action few s, triggerForms_refused bad]
  · rw [← boolOf_not]; rfl
  · rw [← boolOf_not]; rfl
  · change execSetGating p b s = _
    rw [execSetGating, onOff_none b high]
    rfl

/-! ## The key map (R49, R50) -/

theorem functionOf_names {v : Byte} {f : Function} (h : Names (3, v) (.function f)) : functionOf v = some f := by
  have reports : ∀ v : Byte, 5 ≤ v.toNat → v.toNat ≤ 12 → functionOf v = some (.report (v.toNat - 4)) := by decide
  obtain ⟨_, value⟩ := h
  cases f with
  | report n =>
    obtain ⟨low, high, at_n⟩ := value
    change v.toNat = 4 + n at at_n
    rw [reports v (by omega) (by omega)]
    congr 2
    omega
  | _ => cases value; rfl

theorem names_functionOf {v : Byte} {f : Function} (h : functionOf v = some f) : Names (3, v) (.function f) := by
  unfold functionOf at h
  split_ifs at h with hereIs wru breakIn lineLocal send report <;> cases h
  · exact ⟨rfl, hereIs⟩
  · exact ⟨rfl, wru⟩
  · exact ⟨rfl, breakIn⟩
  · exact ⟨rfl, lineLocal⟩
  · exact ⟨rfl, send⟩
  · exact ⟨rfl, show 1 ≤ v.toNat - 4 by omega, show v.toNat - 4 ≤ 8 by omega, show v.toNat = 4 + (v.toNat - 4) by omega⟩

/-- The two bytes of an entry name what the check reads (R49, R192). -/
theorem checkAssignment_iff (e : Byte × Byte) (a : Assignment) : checkAssignment e = some a ↔ Names e a := by
  obtain ⟨type, value⟩ := e
  refine ⟨fun h => ?_, fun h => ?_⟩
  · unfold checkAssignment at h
    split_ifs at h with none symbol shift function
    · cases h
      exact none
    · obtain ⟨y, read, rfl⟩ := Option.map_eq_some_iff.mp h
      obtain ⟨_, byte, _⟩ := checkSymbol_read value y read
      exact ⟨symbol, (checkSymbol_passes value).mp (by rw [read]; rfl), byte.symm⟩
    · cases h
      exact shift
    · obtain ⟨f, read, rfl⟩ := Option.map_eq_some_iff.mp h
      exact ⟨function, (names_functionOf read).2⟩
  · cases a with
    | none => cases h; rfl
    | shift => cases h; rfl
    | symbol y =>
      obtain ⟨one, passes, byte⟩ := h
      obtain ⟨z, read⟩ := Option.isSome_iff_exists.mp ((checkSymbol_passes value).mpr passes)
      obtain ⟨formed, back, _⟩ := checkSymbol_read value z read
      obtain rfl : y = z := Symbol.toByte_injective (byte.symm.trans back.symm)
      cases one
      exact congrArg (Option.map Assignment.symbol) read
    | function f =>
      obtain ⟨three, names⟩ := h
      cases three
      exact congrArg (Option.map Assignment.function) (functionOf_names ⟨rfl, names⟩)

theorem checkAssignments_names {entries : List (Byte × Byte)} {run : List Assignment} (h : List.Forall₂ Names entries run) :
    checkAssignments entries = some run := by
  induction h with
  | nil => rfl
  | cons first _ ih => rw [checkAssignments, (checkAssignment_iff _ _).mpr first, ih]

theorem checkAssignments_refused {entries : List (Byte × Byte)} (h : ∃ e ∈ entries, ∀ a, ¬ Names e a) :
    checkAssignments entries = none := by
  induction entries with
  | nil => simp at h
  | cons e es ih =>
    rw [checkAssignments]
    obtain ⟨f, inside, none⟩ := h
    rcases List.mem_cons.mp inside with rfl | later
    · rw [Option.eq_none_iff_forall_ne_some.mpr fun a read => none a ((checkAssignment_iff f a).mp read)]
    · rw [ih ⟨f, later, none⟩]
      cases checkAssignment e <;> rfl

/-- A run written from a place up, position by position. -/
theorem getElem?_overwrite {α : Type} {xs run : List α} {first : Nat} (h : first + run.length ≤ xs.length) (n : Nat) :
    (overwrite xs first run)[n]? = if first ≤ n ∧ n < first + run.length then run[n - first]? else xs[n]? := by
  have before : (xs.take first).length = first := by rw [List.length_take]; omega
  rw [overwrite, List.append_assoc]
  rcases Nat.lt_or_ge n first with low | high
  · rw [List.getElem?_append_left (by omega), List.getElem?_take_of_lt low, if_neg (by omega)]
  · rw [List.getElem?_append_right (by omega), before]
    rcases Nat.lt_or_ge n (first + run.length) with inside | above
    · rw [List.getElem?_append_left (by omega), if_pos ⟨high, inside⟩]
    · rw [List.getElem?_append_right (by omega), List.getElem?_drop, if_neg (by omega)]
      congr 1
      omega

/-- Settles O32. -/
theorem keymapsAreLoaded : Obligations.KeymapsAreLoaded := by
  intro p plane first entries s some_entry few
  have not_empty : ¬ (entries = [] ∨ 32 < entries.length) := by
    rintro (rfl | many)
    · exact absurd some_entry (by decide)
    · omega
  refine ⟨fun bad => ?_, fun run named fits full0 full1 => ⟨fun zero => ⟨overwrite s.kb.plane0 first.toNat run, ?_, ?_⟩,
    fun one => ⟨overwrite s.kb.plane1 first.toNat run, ?_, ?_⟩⟩⟩
  · change execLoadKeymap p plane first entries s = _
    rw [execLoadKeymap, if_neg not_empty]
    by_cases range : 1 < plane.toNat ∨ 64 < first.toNat + entries.length
    · rw [if_pos range]
      rfl
    · rw [if_neg range, checkAssignments_refused ((bad.resolve_left fun h => range (.inl h)).resolve_left fun h => range (.inr h))]
      rfl
  all_goals have size := checkAssignments_length (checkAssignments_names named)
  · exact fun n _ => getElem?_overwrite (by omega) n
  · change execLoadKeymap p plane first entries s = _
    rw [execLoadKeymap, if_neg not_empty, if_neg (by rw [zero]; exact not_or.mpr ⟨by decide, by omega⟩), checkAssignments_names named]
    dsimp only
    rw [if_pos zero, size]
    rfl
  · exact fun n _ => getElem?_overwrite (by omega) n
  · change execLoadKeymap p plane first entries s = _
    rw [execLoadKeymap, if_neg not_empty, if_neg (by rw [one]; exact not_or.mpr ⟨by decide, by omega⟩), checkAssignments_names named]
    dsimp only
    rw [if_neg (by rw [one]; decide), size]
    rfl

/-! ## Routes and the keyboard mode (R54, R63, R64) -/

theorem State.answer_still (s : State) (p : Port) (a : Answer) : (s.answer p a).still = s.still.answer p a := by cases p <;> rfl

/-- A command that ends in kick leaves u, where it hands to kick a state with u's still part that is u itself with nothing typed. -/
theorem leaves_of_kick_still {c : Instr} {s u v : State} (h : exec c s = .next (kick v)) (still : v.still = u.still)
    (same : u.kb.typeahead = [] → v = u) : Leaves c s u := by
  refine ⟨_, h, (Moves.ofKick v).still.trans still, fun r => ?_⟩
  have empty : u.kb.typeahead = [] := r.elim (·.1) (·.2.1)
  rw [same empty]
  exact r.elim kick_resting kick_engaged

theorem offerHead_empty {s : State} (empty : s.kb.typeahead = []) : offerHead s = s := if_neg fun h => h.1 empty

/-- A head offered in passing, and an answer. -/
theorem leaves_of_offer {c : Instr} {s u : State} {p : Port} {a : Answer} (h : exec c s = .next (kick ((offerHead u).answer p a))) :
    Leaves c s (u.answer p a) := by
  refine leaves_of_kick_still h ?_ fun empty => ?_
  · rw [State.answer_still, State.answer_still, (Moves.ofOfferHead u).still]
  · rw [offerHead_empty (by cases p <;> exact empty)]

/-- Settles O33. -/
theorem keyboardIsLockedAndSwitched : Obligations.KeyboardIsLockedAndSwitched := by
  intro p s
  refine ⟨rfl, rfl, fun line => ⟨leaves_of_kick ?_, leaves_of_offer ?_⟩, fun loc => ⟨leaves_of_kick ?_, leaves_of_offer ?_⟩, fun b high => ?_⟩
  · change Host.Outcome.next (kick ((changeMode .line s).done p 0x23 [])) = _
    rw [changeMode, if_pos line.symm]
    rfl
  · change Host.Outcome.next (kick ((changeMode .loc s).done p 0x23 [])) = _
    rw [changeMode, if_neg (by rw [line]; decide)]
    rfl
  · change Host.Outcome.next (kick ((changeMode .loc s).done p 0x23 [])) = _
    rw [changeMode, if_pos loc.symm]
    rfl
  · change Host.Outcome.next (kick ((changeMode .line s).done p 0x23 [])) = _
    rw [changeMode, if_neg (by rw [loc]; decide)]
    rfl
  · have none : ∀ b : Byte, 1 < b.toNat → kbModeOf b = none := by decide
    change execSetKeyboardMode p b s = _
    rw [execSetKeyboardMode, none b high]
    rfl

theorem RouteRow.permitted_iff (r : RouteRow) (k : SinkSet) : r.permitted.contains k = true ↔
    (k.transmitter = true → r = .line ∨ r = .loc) ∧ (k.store = true → r ≠ .sent) := by
  obtain ⟨a, b, c, d⟩ := k
  cases r <;> simp [RouteRow.permitted, SinkSet.contains]

/-- The set that a ROUTE forms from a row, a function and a mask that name what R64 allows. -/
theorem routeForms_eq {d : Distributor} {row function mask : Byte} {r : RouteRow} {f : Bool → Bool → Bool}
    (named : r = .receive ∧ row = 0 ∨ r = .sent ∧ row = 1 ∨ r = .line ∧ row = 2 ∨ r = .loc ∧ row = 3)
    (does : (∀ o m, f o m = m) ∧ function = 0 ∨ (∀ o m, f o m = (o || m)) ∧ function = 1
      ∨ (∀ o m, f o m = (o && !m)) ∧ function = 2 ∨ (∀ o m, f o m = (o != m)) ∧ function = 3)
    (four : mask.toNat ≤ 15) {k : SinkSet} (set : k = ⟨f (d.row r).transmitter (mask.getLsbD 0), f (d.row r).printer (mask.getLsbD 1),
      f (d.row r).punch (mask.getLsbD 2), f (d.row r).store (mask.getLsbD 3)⟩) :
    routeForms d row function mask = if r.permitted.contains k then some (r, k) else none := by
  have of : routeRowOf row = some r := by
    rcases named with ⟨rfl, rfl⟩ | ⟨rfl, rfl⟩ | ⟨rfl, rfl⟩ | ⟨rfl, rfl⟩ <;> rfl
  have result : routeResult function (d.row r) (SinkSet.ofByte mask) = some k := by
    rcases does with ⟨eq, rfl⟩ | ⟨eq, rfl⟩ | ⟨eq, rfl⟩ | ⟨eq, rfl⟩ <;> simp only [set, eq] <;> rfl
  rw [routeForms, of]
  dsimp only
  rw [if_pos (by simp [fourSinks]; omega), result]

theorem routeForms_refused {d : Distributor} {row function mask : Byte}
    (bad : 3 < row.toNat ∨ 3 < function.toNat ∨ 15 < mask.toNat) : routeForms d row function mask = none := by
  have rows : ∀ b : Byte, 3 < b.toNat → routeRowOf b = none := by decide
  have functions (o m : SinkSet) : routeResult function o m = none ∨ function.toNat ≤ 3 := by
    unfold routeResult
    split <;> simp_all
  unfold routeForms
  split
  · rfl
  · next r of =>
    split_ifs with four
    · have four' : mask.toNat < 16 := by simpa [fourSinks] using four
      rcases bad with high | high | high
      · rw [rows _ high] at of
        cases of
      · rw [(functions _ _).resolve_right (by omega)]
      · omega
    · rfl

/-- Settles O30. -/
theorem routesAreSet : Obligations.RoutesAreSet := by
  intro p row function mask s
  refine ⟨fun bad => ?_, fun r f named does four => ?_⟩
  · change execRoute p row function mask s = _
    rw [execRoute, routeForms_refused bad]
    rfl
  · intro o k allowed lost
    have forms : routeForms s.dist row function mask = if r.permitted.contains k then some (r, k) else none :=
      routeForms_eq named does four rfl
    have may : r.permitted.contains k = true ↔ allowed := r.permitted_iff k
    have mode : r = modeRow s.kb.mode ↔ r = .line ∧ s.kb.mode = .line ∨ r = .loc ∧ s.kb.mode = .loc := by
      cases s.kb.mode <;> simp [modeRow]
    -- the head is offered where the row is that of the mode in force
    have offered (permitted : r.permitted.contains k = true) {u : State}
        (left : u = if r = modeRow s.kb.mode ∧ (s.dist.row r).transmitter = true ∧ k.transmitter = false then
          leave .keyboard (s.setDist (s.dist.setRow r k)) else s.setDist (s.dist.setRow r k)) :
        Leaves (.route p row function mask) s (u.answer p ⟨0x18, .done, none, [k.toByte]⟩) := by
      have ran : exec (.route p row function mask) s =
          .next (kick ((if r = modeRow s.kb.mode then offerHead u else u).answer p ⟨0x18, .done, none, [k.toByte]⟩)) := by
        change execRoute p row function mask s = _
        rw [execRoute, forms, if_pos permitted, left]
        rfl
      split_ifs at ran
      · exact leaves_of_offer ran
      · exact leaves_of_kick ran
    refine ⟨fun refused => ?_, fun set kept => offered (may.mpr set) ?_, fun set drops => offered (may.mpr set) ?_⟩
    · change execRoute p row function mask s = _
      rw [execRoute, forms, if_neg (mt may.mp refused)]
      rfl
    · exact (if_neg fun h => kept ⟨mode.mp h.1, h.2⟩).symm
    · exact (if_pos ⟨mode.mpr drops.1, drops.2⟩).symm

end Sys2Proof.Machine
end

section
-- One proof is elaborated at a time: the threads of many at once do not fit the memory a check allows.
set_option Elab.async false

/-! SUPPORT. The transfer channels: where a position lies in a chain (R86), what a read of a block gives that agrees with its check code or
is DAMAGED (R81, R82), and how a channel goes on in RUNNING (R111 to R119). -/

namespace Sys2Proof.Machine

/-! ## Records by number -/

/-- A record changed under its own number is found changed. -/
theorem Store.find_update {t : Store} {n : Nat} {r : Record} (found : t.find n = some r) {f : Record → Record}
    (same : ∀ q, (f q).number = q.number) : (t.update n f).find n = some (f r) := by
  have hit : r.number = n := (Store.find_mem found).2
  unfold Store.find Store.update at *
  dsimp only
  generalize t.directory = d at found
  induction d with
  | nil => cases found
  | cons q qs ih =>
    rw [List.map_cons]
    by_cases own : q.number = n
    · rw [List.find?_cons_of_pos (by simp [own])] at found
      cases found
      rw [if_pos own, List.find?_cons_of_pos (by simp [same, own])]
    · rw [List.find?_cons_of_neg (by simp [own])] at found
      rw [if_neg own, List.find?_cons_of_neg (by simp [own]), ih found]

theorem Store.find_absent {t : Store} {n : Nat} (h : ∀ r ∈ t.directory, r.number ≠ n) : t.find n = none :=
  List.find?_eq_none.mpr fun r inside => by simpa using h r inside

theorem findMsg_setChan (n : Nat) (s : State) (c : Chan) (w : Option ChanWork) : findMsg n (s.setChan c w) = s.store.find n := by
  cases c <;> rfl

/-! ## Positions in a chain (R86) -/

theorem locate_append (before : List ChainBlock) (chain : List ChainBlock) (n : Nat) :
    locate (before ++ chain) ((before.map (·.fill)).sum + n) = (locate chain n).map fun q => (before.length + q.1, q.2) := by
  induction before with
  | nil => simp
  | cons b bs ih =>
    rw [List.cons_append, List.map_cons, List.sum_cons, locate, if_neg (by omega),
      show b.fill + (bs.map (·.fill)).sum + n - b.fill = (bs.map (·.fill)).sum + n by omega, ih, Option.map_map]
    refine congrArg (fun f => Option.map f _) (funext fun q => ?_)
    simp only [Function.comp_apply, List.length_cons]
    rw [show bs.length + q.1 + 1 = bs.length + 1 + q.1 by omega]

/-- The block that holds a position. -/
theorem locate_block {chain before after : List ChainBlock} {b : ChainBlock} (split : chain = before ++ b :: after) {n off : Nat}
    (at_n : n = (before.map (·.fill)).sum + off) (inside : off < b.fill) : locate chain n = some (before.length, off) := by
  rw [split, at_n, locate_append, locate, if_pos inside]
  rfl

theorem locate_none {chain : List ChainBlock} {n : Nat} (h : (chain.map (·.fill)).sum ≤ n) : locate chain n = none := by
  induction chain generalizing n with
  | nil => rfl
  | cons b bs ih =>
    rw [List.map_cons, List.sum_cons] at h
    rw [locate, if_neg (by omega), ih (by omega)]
    rfl

theorem getElem?_split {chain before after : List ChainBlock} {b : ChainBlock} (split : chain = before ++ b :: after) :
    chain[before.length]? = some b := by
  rw [split, List.getElem?_append_right (Nat.le_refl _), Nat.sub_self]
  rfl

/-! ## Reads (R81, R82) -/

theorem readBlock_clean {n idx : Nat} (who : Reader) (self : Option Chan) {s : State} {r : Record} {b : ChainBlock}
    (found : findMsg n s = some r) (at_idx : r.chain[idx]? = some b) (whole : b.damaged = false) (agrees : s.store.wrongOf b.block = []) :
    readBlock n idx who self s = ⟨s, (s.store.blockBytes b.block).map Symbol.ofByte, false⟩ := by
  rw [readBlock, found, Option.bind_some, at_idx]
  dsimp only
  rw [if_neg (by rw [whole]; decide), agrees]
  rfl

theorem readBlock_damaged {n idx : Nat} (who : Reader) (self : Option Chan) {s : State} {r : Record} {b : ChainBlock}
    (found : findMsg n s = some r) (at_idx : r.chain[idx]? = some b) (bad : b.damaged = true) :
    readBlock n idx who self s = ⟨s, List.replicate b.fill damagedSymbol, true⟩ := by
  rw [readBlock, found, Option.bind_some, at_idx]
  exact if_pos bad

/-- What a channel of a sink set takes as its copy of a block of undamaged bytes, or, without TRANSMITTER, of a DAMAGED one. -/
def Store.readsAs (t : Store) (b : ChainBlock) : List Symbol :=
  if b.damaged then List.replicate b.fill damagedSymbol else (t.blockBytes b.block).map Symbol.ofByte

theorem Store.readsAs_sound {b : ChainBlock} (sound : b.damaged = false) (t : Store) :
    t.readsAs b = (t.blockBytes b.block).map Symbol.ofByte := if_neg (by rw [sound]; exact Bool.false_ne_true)

theorem setChan_setChan (s : State) (c : Chan) (v w : Option ChanWork) : (s.setChan c v).setChan c w = s.setChan c w := by cases c <;> rfl

/-- A channel keeps a valid copy of the block it needs (R112). -/
theorem ensureCopy_kept (c : Chan) {w : ChanWork} {j : Nat} (holds : w.holds j = true) (s : State) : ensureCopy c w j s = (s, true) :=
  if_pos holds

/-- A channel reads the block it needs (R112, R118). -/
theorem ensureCopy_read (c : Chan) {w : ChanWork} {j : Nat} (needs : w.holds j = false) {s : State} {r : Record} {b : ChainBlock}
    (found : findMsg w.message s = some r) (at_j : r.chain[j]? = some b) (agrees : b.damaged = false → s.store.wrongOf b.block = [])
    (may : b.damaged = true → w.sinks.transmitter = false) :
    ensureCopy c w j s = (s.setChan c (some { w with copy := some ⟨j, s.store.readsAs b, true⟩ }), true) := by
  rw [ensureCopy, if_neg (by rw [needs]; decide), Store.readsAs]
  cases bad : b.damaged with
  | false =>
    rw [readBlock_clean .channel (some c) found at_j bad (agrees bad)]
    rfl
  | true =>
    rw [readBlock_damaged .channel (some c) found at_j bad]
    dsimp only
    rw [may bad]
    rfl

/-- A transmitting channel that needs a DAMAGED block (R117). -/
theorem ensureCopy_aborts (c : Chan) {w : ChanWork} {j : Nat} (needs : w.holds j = false) {s : State} {r : Record} {b : ChainBlock}
    (found : findMsg w.message s = some r) (at_j : r.chain[j]? = some b) (bad : b.damaged = true) (sends : w.sinks.transmitter = true) :
    ensureCopy c w j s = (s, false) := by
  rw [ensureCopy, if_neg (by rw [needs]; decide), readBlock_damaged .channel (some c) found at_j bad]
  dsimp only
  rw [sends]
  rfl

theorem told_silent (c : Chan) (s : State) : told c (s, none) = s := rfl

/-! ## A channel goes on (R111, R114) -/

theorem Printer.offer_permanent (p : Printer) : p.offer = .permanent ↔ p.engine = .fault := by
  unfold Printer.offer
  split_ifs <;> simp_all

theorem Punch.offer_permanent (p : Punch) : p.offer = .permanent ↔ p.engine = .off := by
  unfold Punch.offer
  split_ifs <;> simp_all

theorem sinksPermanent_iff (k : SinkSet) (s : State) : sinksPermanent k s = true ↔
    k.printer = true ∧ s.printer.engine = .fault ∨ k.punch = true ∧ s.punch.engine = .off := by
  simp [sinksPermanent, Printer.offer_permanent, Punch.offer_permanent]

/-- A channel that needs no other block than the one whose copy it has made. -/
theorem proceedChan_copied {c : Chan} {s : State} {w : ChanWork} {r : Record} {q : Nat × Nat} {copy : Option Copy} (at_c : s.chan c = some w)
    (found : s.store.find w.message = some r) (place : locate r.chain w.position = some q)
    (copies : ensureCopy c { w with phase := .running } q.1 (s.setChan c (some { w with phase := .running }))
      = (s.setChan c (some { w with phase := .running, copy := copy }), true)) :
    proceedChan c s =
      let u := (if w.sinks.transmitter then s.setLine (s.line.asked (.chan c)) else s).setChan c
        (some { w with phase := .running, copy := copy })
      if sinksPermanent w.sinks s then holdChan c .sink u else (u, none) := by
  have asks : (if w.sinks.transmitter then request (.chan c) (s.setChan c (some { w with phase := .running, copy := copy }))
      else s.setChan c (some { w with phase := .running, copy := copy }))
      = (if w.sinks.transmitter then s.setLine (s.line.asked (.chan c)) else s).setChan c
        (some { w with phase := .running, copy := copy }) := by
    rw [← LineUnit.request_asked]
    split_ifs <;> cases c <;> rfl
  have refuses : sinksPermanent w.sinks ((if w.sinks.transmitter then s.setLine (s.line.asked (.chan c)) else s).setChan c
      (some { w with phase := .running, copy := copy })) = sinksPermanent w.sinks s := by
    split_ifs <;> cases c <;> rfl
  rw [proceedChan, at_c]
  dsimp only
  rw [show findMsg w.message s = some r from found]
  dsimp only
  rw [place]
  dsimp only
  rw [copies]
  dsimp only
  rw [if_pos rfl, asks, refuses]

end Sys2Proof.Machine
end

section
-- One proof is elaborated at a time: the threads of many at once do not fit the memory a check allows.
set_option Elab.async false

/-! SUPPORT. The keys of a scan (R46 to R59): one key confirmed down, its symbol in the typeahead or its function. -/

namespace Sys2Proof.Machine

/-! ## What refuses the keyboard's head (R62, R69, R95) -/

/-- A last block that has room for a symbol. -/
theorem openLast_isSome (chain : List ChainBlock) :
    (openLast chain).isSome = true ↔ ∃ b, chain.getLast? = some b ∧ b.damaged = false ∧ b.fill < 32 := by
  have size : Config.blockSize = 32 := rfl
  unfold openLast
  rw [size]
  cases chain.getLast? with
  | none => simp
  | some b =>
    by_cases room : b.damaged = false ∧ b.fill < 32 <;> simp [room]

/-- STORE refuses a keyboard symbol: nothing is open for KEYBOARD, or its message needs a block that the reserve keeps back. -/
theorem keyboardStoreOffer_none {s : State} (closed : s.store.slotKeyboard = none) : keyboardStoreOffer s = .permanent := by
  rw [keyboardStoreOffer, closed]
  rfl

theorem keyboardStoreOffer_prepared {s : State} {n : Nat} {r : Record} (slot : s.store.slotKeyboard = some n)
    (found : s.store.find n = some r) (kind : r.kind = .prepared) : keyboardStoreOffer s =
      if (∃ b, r.chain.getLast? = some b ∧ b.damaged = false ∧ b.fill < 32) ∨ 16 < s.store.free.length then .takes else .permanent := by
  have reserve : Config.blockReserve = 16 := rfl
  have needs : needsBlock r.chain = true ↔ ¬ ∃ b, r.chain.getLast? = some b ∧ b.damaged = false ∧ b.fill < 32 := by
    rw [← openLast_isSome, needsBlock]
    cases openLast r.chain <;> simp
  rw [keyboardStoreOffer, slot, Option.bind_some, findMsg, found]
  simp only [Store.blockAllowed, kind, reserve, Bool.and_eq_true, needs, Bool.not_eq_true', decide_eq_false_iff_not]
  by_cases room : ∃ b, r.chain.getLast? = some b ∧ b.damaged = false ∧ b.fill < 32 <;> by_cases free : 16 < s.store.free.length <;>
    simp [room, free]

theorem keyboardRefused_iff (row : SinkSet) (s : State) : keyboardRefused row s = true ↔
    row.printer = true ∧ s.printer.engine = .fault ∨ row.punch = true ∧ s.punch.engine = .off
      ∨ row.store = true ∧ keyboardStoreOffer s = .permanent := by
  simp [keyboardRefused, sinksPermanent, Printer.offer_permanent, Punch.offer_permanent, or_assoc]

/-! ## Nothing moves -/

/-- A row without TRANSMITTER: KEYBOARD stands in no list (R53). -/
theorem settleKeyboard_silent {s : State} (row : (keyboardRow s).transmitter = false) (absent : .keyboard ∉ s.line.requests) :
    settleKeyboard s = s := by
  rw [settleKeyboard, if_neg (by rw [row]; exact fun h => Bool.false_ne_true h.2), LineUnit.withdraw_absent absent]
  rfl

/-- A character is in flight, or nobody holds the grant and no answer-back is wanted: the transmitter takes nothing (R35). -/
theorem kick_settled {s : State} (settled : settleKeyboard s = s)
    (quiet : s.line.txChar ≠ none ∨ s.line.holder = none ∧ s.line.abState = .none) : kick s = s := by
  by_cases busy : s.line.txChar = none
  · obtain ⟨nobody, ab⟩ := quiet.resolve_left fun h => h busy
    have idle : takeNext s = s := by
      simp only [takeNext, takeHolder, ab, nobody]
      exact ite_self s
    rw [kick_free busy settled, idle, settled]
  · rw [kick_inFlight busy, settled]

/-! ## One key of a scan (R46 to R49) -/

theorem modifierHeld_eq {keys : List Key} {plane : List Assignment} (hk : keys.length = 64) (hp : plane.length = 64) :
    modifierHeld keys plane = (List.range 64).any fun k => (keys.getD k ⟨false, 0⟩).down && (plane.getD k .none == .shift) := by
  rw [Bool.eq_iff_iff, modifierHeld, List.any_eq_true, List.any_eq_true]
  refine ⟨fun ⟨q, inside, held⟩ => ?_, fun ⟨n, low, held⟩ => ?_⟩
  · obtain ⟨n, bound, at_n⟩ := List.getElem_of_mem inside
    rw [List.length_zip, hk, hp] at bound
    refine ⟨n, List.mem_range.mpr (by omega), ?_⟩
    rw [List.getElem_zip] at at_n
    rw [List.getD_eq_getElem _ _ (by omega), List.getD_eq_getElem _ _ (by omega)]
    rw [← at_n] at held
    exact held
  · have bound : n < 64 := List.mem_range.mp low
    rw [List.getD_eq_getElem _ _ (by omega), List.getD_eq_getElem _ _ (by omega)] at held
    exact ⟨(keys[n], plane[n]), List.mem_iff_getElem.mpr ⟨n, by rw [List.length_zip]; omega, List.getElem_zip⟩, held⟩

/-- A scan that confirms one key down carries out its assignment (R48, R49). -/
theorem exec_keyScan_one {seen : BitVec 64} {s : State} {n : Nat} {a : Assignment} {held : Bool}
    (hk : s.kb.keys.length = 64) (hp : s.kb.plane0.length = 64)
    (one : pressed s.kb.keys (scanKeys s.kb.confirmCount s.kb.keys seen) = [n])
    (modifier : held = (List.range 64).any fun k =>
      ((scanKeys s.kb.confirmCount s.kb.keys seen).getD k ⟨false, 0⟩).down && (s.kb.plane0.getD k .none == .shift))
    (assigned : (if held then s.kb.plane1 else s.kb.plane0).getD n .none = a) :
    exec (.keyScan seen) s = .next (keyAct a (s.setKb { s.kb with
      keys := scanKeys s.kb.confirmCount s.kb.keys seen, modifier := held })) := by
  have size : (scanKeys s.kb.confirmCount s.kb.keys seen).length = 64 := by rw [scanKeys, List.length_mapIdx, hk]
  change execKeyScan seen s = _
  rw [execKeyScan]
  dsimp only
  rw [one, modifierHeld_eq size hp, ← modifier, takeKeys, takeKeys, State.setKb_kb]
  dsimp only
  rw [assigned]

/-! ## A symbol key (R52, R53) -/

/-- A symbol at the tail of the typeahead; the release interval stops (R40, R52). -/
def State.joined (s : State) (y : Symbol) : State :=
  (s.setKb { s.kb with typeahead := s.kb.typeahead ++ [y] }).setLine { s.line with releaseRun := none }

theorem joined_waits (s : State) (y : Symbol) : (s.joined y).kb.typeahead ≠ [] := List.append_ne_nil_of_right_ne_nil _ (List.cons_ne_nil y [])

theorem typeSymbol_locked {s : State} (locked : s.kb.portLock = true ∨ s.kb.callLock = true) (y : Symbol) : typeSymbol y s = s :=
  if_pos (by simpa [Keyboard.locked] using locked)

theorem Keyboard.locked_false {k : Keyboard} (free : ¬ (k.portLock = true ∨ k.callLock = true)) : ¬ k.locked = true := by
  simpa [Keyboard.locked] using free

theorem typeSymbol_full {s : State} (free : ¬ (s.kb.portLock = true ∨ s.kb.callLock = true)) (full : 32 ≤ s.kb.typeahead.length)
    (y : Symbol) : typeSymbol y s = ringBell s := by
  rw [typeSymbol, if_neg (Keyboard.locked_false free), if_neg (by omega)]

theorem typeSymbol_room {s : State} (free : ¬ (s.kb.portLock = true ∨ s.kb.callLock = true)) (room : s.kb.typeahead.length < 32)
    (y : Symbol) : typeSymbol y s = if s.kb.typeahead = [] then offerHead (s.joined y) else s.joined y := by
  rw [typeSymbol, if_neg (Keyboard.locked_false free), if_pos room]
  rfl

theorem typeSymbol_joins {s : State} (free : ¬ (s.kb.portLock = true ∨ s.kb.callLock = true)) (room : s.kb.typeahead.length < 32)
    {y : Symbol} (taken : s.kb.typeahead ≠ [] ∨ keyboardRefused (keyboardRow s) s = false) : typeSymbol y s = s.joined y := by
  rw [typeSymbol_room free room]
  split_ifs with head
  · have admitted : keyboardRefused (keyboardRow s) s = false := taken.resolve_left fun h => h head
    exact if_neg fun h => Bool.false_ne_true (admitted.symm.trans h.2)
  · rfl

/-- A head that a sink refuses permanently is discarded with a bell (R69). -/
theorem typeSymbol_refused {s : State} (free : ¬ (s.kb.portLock = true ∨ s.kb.callLock = true)) (head : s.kb.typeahead = [])
    (refused : keyboardRefused (keyboardRow s) s = true) (other : s.line.holder ≠ some .keyboard) (absent : .keyboard ∉ s.line.requests)
    (y : Symbol) : typeSymbol y s = (ringBell s).setLine { s.line with releaseRun := none } := by
  rw [typeSymbol_room free (by rw [head]; decide), if_pos head, offerHead, if_pos ⟨joined_waits s y, refused⟩, discardHeads, startRelease,
    if_neg (fun h => other h.2)]
  have none : (s.joined y).line.withdraw .keyboard = (s.joined y).line := LineUnit.withdraw_absent absent
  rw [none, ← head]
  rfl

/-- A key that joins its symbol to a free transmitter's typeahead: KEYBOARD is given the grant, and the symbol or its shift is taken. -/
theorem kick_joined {s : State} {y : Symbol} (row : keyboardRow s = ⟨true, false, false, false⟩) (mode : s.kb.mode = .line)
    (head : s.kb.typeahead = []) (free : s.line.txChar = none) (nobody : s.line.holder = none) (list : s.line.requests = [])
    (ab : s.line.abState = .none) (enabled : s.line.txEnable = true) (rate : s.line.pendingRate = none) :
    kick (s.joined y) = ((s.setLine { s.line with holder := some .keyboard, releaseRun := none }).sendsHead y []).copied
      (sentSymbol (emission s.line.txCase y).1 (emission s.line.txCase y).2 y) := by
  have asked : settleKeyboard (s.joined y) = (s.setKb { s.kb with typeahead := [y] }).setLine
      { s.line with holder := some .keyboard, releaseRun := none } := by
    rw [settleKeyboard, if_pos ⟨joined_waits s y, by rw [show keyboardRow (s.joined y) = keyboardRow s from rfl, row]⟩, request,
      LineUnit.request, if_neg (by simp [State.joined, nobody, list]),
      LineUnit.pass_given (q := .keyboard) (qs := []) (by exact nobody) (by exact enabled) (by exact rate)
        (by simp [State.joined, list])]
    rw [State.joined, head, ← list]
    rfl
  have row' : s.dist.rowLine = ⟨true, false, false, false⟩ := by rw [← row, keyboardRow, mode]
  have next : takeNext (settleKeyboard (s.joined y)) = ((s.setLine { s.line with holder := some .keyboard, releaseRun := none }).sendsHead y
      []).copied (sentSymbol (emission s.line.txCase y).1 (emission s.line.txCase y).2 y) := by
    rw [asked]
    have holds : takeNext ((s.setKb { s.kb with typeahead := [y] }).setLine { s.line with holder := some .keyboard, releaseRun := none })
        = takeKeyboard ((s.setKb { s.kb with typeahead := [y] }).setLine { s.line with holder := some .keyboard, releaseRun := none }) := by
      simp only [takeNext, takeHolder, State.setLine_line, ab, enabled, rate, and_self, if_true]
    rw [holds, takeKeyboard_eq (ys := []) (by rfl) (by exact row) (by rfl)]
    rfl
  have busy : (settleKeyboard (s.joined y)).line.txChar = none := by rw [asked]; exact free
  unfold kick
  rw [if_pos busy, next, settleKeyboard_own (by exact mode) (by exact row') rfl]
  split_ifs
  · rw [copied_line, LineUnit.withdraw_absent (by rw [State.sendsHead, State.setLine_line]; simp [list])]
    rfl
  · rfl

/-- The row in force. -/
theorem keyboardRow_eq {s : State} {row : SinkSet} (h : s.kb.mode = .line ∧ row = s.dist.rowLine ∨ s.kb.mode = .loc ∧ row = s.dist.rowLocal) :
    keyboardRow s = row := by
  rcases h with ⟨mode, rfl⟩ | ⟨mode, rfl⟩ <;> rw [keyboardRow, mode]

/-! ## A function key (R54, R56 to R59, R171) -/

/-- A command that ends in kick brings u, where it hands to kick a state with u's still part that is u itself with nothing typed. -/
theorem brings_of_kick_still {c : Instr} {s u v : State} (h : exec c s = .next (kick v)) (still : v.still = u.still)
    (same : u.kb.typeahead = [] → v = u) (engaged : s.Engaged → u.Engaged) : Brings c s u := by
  refine ⟨leaves_of_kick_still h still same, fun e => ?_⟩
  rw [h, same (engaged e).2.1, kick_engaged (engaged e)]

theorem brings_of_kick {c : Instr} {s u : State} (h : exec c s = .next (kick u)) (engaged : s.Engaged → u.Engaged) : Brings c s u :=
  brings_of_kick_still h rfl (fun _ => rfl) engaged

theorem LineUnit.request_subset {l : LineUnit} {r q : Requester} (h : q ∈ (l.request r).requests) : q ∈ l.requests ∨ q = r := by
  unfold LineUnit.request at h
  split_ifs at h
  · exact .inl h
  · simpa using (LineUnit.pass_sublist _).subset h

theorem LineUnit.request_engaged_fields (l : LineUnit) (r : Requester) :
    (l.request r).txChar = l.txChar ∧ (l.request r).txEnable = l.txEnable ∧ (l.request r).abState = l.abState := by
  unfold LineUnit.request
  split_ifs
  · exact ⟨rfl, rfl, rfl⟩
  · exact LineUnit.pass_engaged_fields _

/-- Another's request leaves what keeps the transmitter from a character (R38). -/
theorem engaged_asked {s t : State} (h : s.Engaged) {r : Requester} (other : r ≠ .keyboard)
    (kb : t.kb.typeahead = s.kb.typeahead) {l : LineUnit} (requests : l.requests = s.line.requests)
    (line : l.txChar = s.line.txChar ∧ l.txEnable = s.line.txEnable ∧ l.abState = s.line.abState)
    (asked : t.line = l.asked r) : t.Engaged := by
  obtain ⟨busy, empty, absent⟩ := h
  obtain ⟨char, enable, ab⟩ := line
  obtain ⟨char', enable', ab'⟩ := l.request_engaged_fields r
  rw [← LineUnit.request_asked] at asked
  rw [State.Engaged, asked, char', enable', ab', char, enable, ab, kb]
  exact ⟨busy, empty, fun inside => (LineUnit.request_subset inside).elim (requests ▸ absent) (Ne.symm other)⟩

/-- An answer-back asked for while a character is in flight, or transmit enable is OFF, waits (R36, R42). -/
theorem engaged_answerBack {s : State} (h : s.Engaged) {l : LineUnit} (char : l.txChar = s.line.txChar)
    (enable : l.txEnable = s.line.txEnable) (requests : l.requests = s.line.requests)
    (ab : l.abState ≠ .sending ∨ l.abState = s.line.abState) : (s.setLine l).Engaged := by
  obtain ⟨busy, empty, absent⟩ := h
  refine ⟨busy.imp (fun h => ?_) fun ⟨off, quiet⟩ => ⟨enable.trans off, ?_⟩, empty, fun h => absent (requests ▸ h)⟩
  · exact fun none => h (char.symm.trans none)
  · exact ab.elim id fun same => same ▸ quiet

theorem answerBack_pending {s : State} (ab : s.line.abState = .none) (latch : s.ident.latch ≠ none) :
    answerBack s = s.setLine { s.line with abState := .pending, absorbed := 0 } := by
  obtain ⟨l, at_latch⟩ := Option.ne_none_iff_exists'.mp latch
  rw [answerBack, ab, at_latch]

theorem answerBack_absorbed {s : State} (ab : s.line.abState ≠ .none) :
    answerBack s = s.setLine { s.line with absorbed := min 255 (s.line.absorbed + 1) } := by
  unfold answerBack
  cases at_ab : s.line.abState with
  | none => exact absurd at_ab ab
  | pending => rfl
  | sending => rfl

theorem answerBack_empty {s : State} (ab : s.line.abState = .none) (latch : s.ident.latch = none) (auto : s.calls.auto = none) :
    answerBack s = post (.wruAnswered 0 0 true) s := by
  rw [answerBack, ab, latch]
  simp only [seqWruAnswered, post_calls, auto]

theorem wruAsk_eq (s : State) : wruAsk s = { s with
    line := { s.line with control := some ⟨6, .figures, false⟩ }.asked .control
    calls := { s.calls with wruPending := true } } := by
  rw [wruAsk, handControl, request, LineUnit.request_asked]
  rfl

theorem captureMayStart_iff (s : State) : captureMayStart s = true ↔ (s.calls.state = .incoming ∨ s.calls.state = .outgoing)
    ∧ s.calls.phase = some .traffic ∧ s.calls.wruPending = false ∧ s.calls.capturing = false := by
  simp [captureMayStart, and_assoc]

theorem State.heldFor_none {s : State} {c : Chan} (idle : s.chan c = none) (why : HoldReason) : s.heldFor c why = s := by
  rw [State.heldFor, idle]

theorem State.heldFor_works {s : State} {c : Chan} {w : ChanWork} (at_c : s.chan c = some w) (unheld : ∀ r, w.phase ≠ .held r)
    (why : HoldReason) : s.heldFor c why = post (.channelHeld c w.message w.position why)
      ((s.setLine (s.line.leave (.chan c))).setChan c (some { w with phase := .held why })) := by
  rw [State.heldFor, at_c]
  dsimp only
  split
  · next r held => exact absurd held (unheld r)
  · rfl

theorem LineUnit.leave_absent {l : LineUnit} {r : Requester} (other : l.holder ≠ some r) (absent : r ∉ l.requests) : l.leave r = l := by
  rw [LineUnit.leave_other other, LineUnit.withdraw_absent absent]

/-- A hold of both channels, one of them at work and not in the arbiter. -/
theorem heldFor_one {s : State} {c : Chan} {w : ChanWork} (at_c : s.chan c = some w) (only : ∀ d, d ≠ c → s.chan d = none)
    (unheld : ∀ r, w.phase ≠ .held r) (other : s.line.holder ≠ some (.chan c)) (absent : .chan c ∉ s.line.requests) (why : HoldReason) :
    (s.heldFor .ch0 why).heldFor .ch1 why = post (.channelHeld c w.message w.position why)
      (s.setChan c (some { w with phase := .held why })) := by
  have held := State.heldFor_works at_c unheld why
  rw [LineUnit.leave_absent other absent] at held
  cases c with
  | ch0 =>
    rw [State.heldFor_none (c := .ch1), held]
    · rfl
    · rw [State.heldFor_other (by decide)]
      exact only .ch1 (by decide)
  | ch1 =>
    rw [State.heldFor_none (only .ch0 (by decide)), held]
    rfl

/-- A function key's head offered in passing. -/
theorem brings_of_offer {c : Instr} {s u : State} (h : exec c s = .next (kick (offerHead u))) (engaged : s.Engaged → u.Engaged) :
    Brings c s u :=
  brings_of_kick_still h (Moves.ofOfferHead u).still offerHead_empty engaged

theorem triggerChan_other {c : Chan} {t : ChTrigger} {s : State} (h : ∀ w, s.chan c = some w → w.phase ≠ .pending ∨ w.trigger ≠ t) :
    triggerChan c t s = (s, none) := by
  unfold triggerChan
  split
  · rfl
  · next w at_c => exact if_neg fun both => (h w at_c).elim (· both.1) (· both.2)

theorem triggerChan_occurs {c : Chan} {t : ChTrigger} {s : State} {w : ChanWork} (at_c : s.chan c = some w) (phase : w.phase = .pending)
    (trigger : w.trigger = t) : triggerChan c t s = proceedChan c (s.setChan c (some { w with occurred := true })) := by
  rw [triggerChan, at_c]
  exact if_pos ⟨phase, trigger⟩

/-- SEND with CH0 alone waiting for it, at the head of its message (R58, R110, R111). -/
theorem send_starts {s : State} {w : ChanWork} {r : Record} {b : ChainBlock} {bs : List ChainBlock} (ch0 : s.ch0 = some w)
    (ch1 : s.ch1 = none) (phase : w.phase = .pending) (trigger : w.trigger = .sendKey) (position : w.position = 0) (copy : w.copy = none)
    (sinks : w.sinks = ⟨true, false, false, false⟩) (found : s.store.find w.message = some r) (chain : r.chain = b :: bs)
    (fill : 1 ≤ b.fill) (sound : b.damaged = false) (clean : s.store.wrongOf b.block = []) :
    told .ch1 (triggerChan .ch1 .sendKey (told .ch0 (triggerChan .ch0 .sendKey s))) = { s with
      line := s.line.asked (.chan .ch0)
      ch0 := some { w with
        phase := .running, occurred := true
        copy := some ⟨0, (s.store.blockBytes b.block).map Symbol.ofByte, true⟩ } } := by
  have runs := proceedChan_copied (c := .ch0) (s := s.setChan .ch0 (some { w with occurred := true })) (w := { w with occurred := true })
    rfl (by exact found) (by rw [position, chain]; exact if_pos (by omega))
    (ensureCopy_read .ch0 (by rw [ChanWork.holds, copy]) (b := b) (by exact found) (by rw [chain]; rfl) (fun _ => by exact clean)
      (fun bad => absurd (sound.symm.trans bad) Bool.false_ne_true))
  have open_sinks : ¬ sinksPermanent w.sinks (s.setChan .ch0 (some { w with occurred := true })) = true := by
    rw [sinks]
    exact Bool.false_ne_true
  dsimp only at runs
  rw [if_neg open_sinks, if_pos (by rw [sinks])] at runs
  rw [triggerChan_occurs (c := .ch0) ch0 phase trigger, runs, told_silent, told, triggerChan_other,
    Store.readsAs_sound sound]
  · rfl
  · exact fun v at_1 => nomatch ch1.symm.trans at_1

/-- Settles O35. -/
theorem keysTypeSymbols : Obligations.KeysTypeSymbols := by
  refine ⟨?_, ?_⟩
  · intro seen s n y row c keys held kb joined dropped locked known filling room refused admitted hk hp one assigned in_force
    have ran : exec c s = .next (kick (typeSymbol y (s.setKb kb))) := exec_keyScan_one hk hp one rfl assigned
    have row_of : keyboardRow (s.setKb kb) = row := keyboardRow_eq in_force
    have taken (h : s.kb.typeahead ≠ [] ∨ admitted) :
        (s.setKb kb).kb.typeahead ≠ [] ∨ keyboardRefused (keyboardRow (s.setKb kb)) (s.setKb kb) = false := by
      refine h.imp_right fun ⟨printer, punch, store⟩ => ?_
      rw [Bool.eq_false_iff, Ne, row_of, keyboardRefused_iff]
      rintro (⟨given, fault⟩ | ⟨given, off⟩ | ⟨given, permanent⟩)
      · exact printer given fault
      · exact punch given off
      · obtain ⟨r, ⟨m, slot, found, kind⟩, fits⟩ := store given
        rw [keyboardStoreOffer_prepared (s := s.setKb kb) slot found kind, if_pos (by exact fits)] at permanent
        cases permanent
    refine ⟨fun silent absent quiet => ?_, fun free head bad other absent quiet => ?_, fun sends busy => ?_,
      fun only mode free head nobody_sends nobody list ab enabled rate => ?_⟩
    · have still (t : State) (row' : keyboardRow t = row) (line : t.line.requests = s.line.requests ∧ t.line.txChar = s.line.txChar
          ∧ t.line.holder = s.line.holder ∧ t.line.abState = s.line.abState) : kick t = t := by
        obtain ⟨requests, char, holder, answer⟩ := line
        refine kick_settled (settleKeyboard_silent (row' ▸ silent) (requests ▸ absent)) ?_
        rw [char, holder, answer]
        exact quiet.imp_right fun h => ⟨h.1, h.2.2⟩
      refine ⟨fun lock => ?_, fun free room' admits => ?_, fun free full => ?_⟩
      · rw [ran, typeSymbol_locked (by exact lock), still _ (by exact row_of) (by exact ⟨rfl, rfl, rfl, rfl⟩)]
      · rw [ran, typeSymbol_joins (by exact free) (by exact room') (taken admits), still _ (by exact row_of) (by exact ⟨rfl, rfl, rfl, rfl⟩)]
        rfl
      · rw [ran, typeSymbol_full (by exact free) (by exact full), still _ (by exact row_of) (by exact ⟨rfl, rfl, rfl, rfl⟩)]
        rfl
    · have refuses : keyboardRefused (keyboardRow (s.setKb kb)) (s.setKb kb) = true := by
        rw [row_of, keyboardRefused_iff]
        refine bad.imp_right fun h => h.imp_right fun ⟨given, cause⟩ => ⟨given, ?_⟩
        rcases cause with closed | ⟨r, ⟨m, slot, found, kind⟩, full, low⟩
        · exact keyboardStoreOffer_none closed
        · rw [keyboardStoreOffer_prepared (s := s.setKb kb) slot found kind, if_neg (by exact not_or.mpr ⟨full, Nat.not_lt.mpr low⟩)]
      rw [ran, typeSymbol_refused (by exact free) (by exact head) refuses (by exact other) (by exact absent),
        kick_settled (settleKeyboard_absent (by exact head) (by exact absent))]
      · rfl
      · exact quiet.imp_right fun h => ⟨h.1, h.2.2⟩
    · refine ⟨fun lock place => ?_, fun free room' admits => ?_, fun free full there => ?_⟩
      · rw [ran, typeSymbol_locked (by exact lock), kick_inFlight (by exact busy)]
        rcases place with ⟨waits, there⟩ | ⟨head, absent⟩
        · rw [settleKeyboard_known (by exact waits) (row_of ▸ sends) (by exact there)]
        · rw [settleKeyboard_absent (by exact head) (by exact absent)]
      · rw [ran, typeSymbol_joins (by exact free) (by exact room') (taken admits), kick_inFlight (by exact busy), settleKeyboard,
          if_pos ⟨joined_waits _ y, row_of ▸ sends⟩, request, LineUnit.request_asked]
        rfl
      · have waits : s.kb.typeahead ≠ [] := List.ne_nil_of_length_pos (by omega)
        rw [ran, typeSymbol_full (by exact free) (by exact full), kick_inFlight (by exact busy),
          settleKeyboard_known (by exact waits) (row_of ▸ sends) (by exact there)]
        rfl
    · have room' : (s.setKb kb).kb.typeahead.length < 32 := by
        rw [show (s.setKb kb).kb.typeahead = [] from head]
        decide
      have admits : keyboardRefused (keyboardRow (s.setKb kb)) (s.setKb kb) = false := by
        rw [row_of, only]
        rfl
      rw [ran, typeSymbol_joins (by exact free) (by exact room') (.inr admits),
        kick_joined (row_of.trans only) mode head nobody_sends nobody list ab enabled rate]
      cases shift : (emission s.line.txCase y).1 <;>
        simp only [State.sendsHead, State.setLine_line, State.setKb_line, shift] <;> rfl
  · intro seen s n f keys held c u locked hk hp one assigned
    have ran : exec c s = .next (kick (keyFunction f u)) := exec_keyScan_one hk hp one rfl assigned
    have same : s.Engaged → u.Engaged := id
    refine ⟨fun key lock => ?_, fun key free ab latch => ?_, fun key free ab => ?_, fun key free ab latch auto => ?_,
      ⟨fun key bars => ?_, fun key may => ?_⟩, fun key ch0 ch1 => ?_, fun ch w key at_ch only unheld by_port other absent => ?_,
      fun key mode => ?_, fun key mode other absent => ?_, fun key idle => ?_,
      fun w r b bs key free ch0 ch1 phase trigger position copy sinks found chain fill sound clean => ?_, fun m key => ?_⟩ <;> cases key
    · have kept : keyFunction .hereIs u = u := if_pos (by simp [Keyboard.locked]; exact lock)
      exact brings_of_kick (kept ▸ ran) same
    · have acts : keyFunction .hereIs u = _ := (if_neg (Keyboard.locked_false (by exact free))).trans
        (answerBack_pending (by exact ab) (by exact latch))
      exact brings_of_kick (acts ▸ ran) fun e => engaged_answerBack e rfl rfl rfl (.inl fun h => AbState.noConfusion h)
    · have acts : keyFunction .hereIs u = _ := (if_neg (Keyboard.locked_false (by exact free))).trans (answerBack_absorbed (by exact ab))
      exact brings_of_kick (acts ▸ ran) fun e => engaged_answerBack e rfl rfl rfl (.inr rfl)
    · have acts : keyFunction .hereIs u = _ := (if_neg (Keyboard.locked_false (by exact free))).trans
        (answerBack_empty (by exact ab) (by exact latch) (by exact auto))
      exact brings_of_kick (acts ▸ ran) same
    · have kept : keyFunction .wru u = u := if_neg (mt (captureMayStart_iff u).mp bars)
      exact brings_of_kick (kept ▸ ran) same
    · have acts : keyFunction .wru u = _ := (if_pos ((captureMayStart_iff u).mpr may)).trans (wruAsk_eq u)
      exact brings_of_kick (acts ▸ ran) fun e => engaged_asked (r := .control) (l := { s.line with control := some ⟨6, .figures, false⟩ })
        e (by decide) rfl rfl ⟨rfl, rfl, rfl⟩ rfl
    · have acts : keyFunction .breakIn u = post .keyBreak u := by
        rw [keyFunction, holdBoth_unheeded (.inl fun ch w at_ch => by cases ch <;> simp [u, State.chan, ch0, ch1] at at_ch)]
        simp [State.heldFor, State.chan, u, ch0, ch1]
      exact brings_of_kick (acts ▸ ran) same
    · have unheeded : u.Unheeded := .inl fun d v at_d => by
        by_cases own : d = ch
        · cases own
          cases at_ch.symm.trans (show s.chan ch = some v by cases ch <;> exact at_d)
          exact by_port
        · have idle := only d own
          have : s.chan d = some v := by cases d <;> exact at_d
          rw [idle] at this
          cases this
      have acts : keyFunction .breakIn u = _ := congrArg (post .keyBreak) ((holdBoth_unheeded unheeded .key).trans
        (heldFor_one (c := ch) (w := w) (by cases ch <;> exact at_ch) (fun d ne => by have := only d ne; cases d <;> exact this) unheld
          (by exact other) (by exact absent) .key))
      exact brings_of_kick (acts ▸ ran) fun e => by cases ch <;> exact e
    · have acts : keyFunction .lineLocal u = offerHead (post (.keyboardMode .line) (u.setKb { u.kb with mode := .line })) := by
        rw [keyFunction, if_neg (by rw [show u.kb.mode = .loc from mode]; decide), changeMode,
          if_neg (by rw [show u.kb.mode = .loc from mode]; decide)]
      exact brings_of_offer (acts ▸ ran) same
    · have acts : keyFunction .lineLocal u = offerHead (post (.keyboardMode .loc) (u.setKb { u.kb with mode := .loc })) := by
        rw [keyFunction, if_pos (by exact mode), changeMode, if_neg (by rw [show u.kb.mode = .line from mode]; decide)]
        dsimp only
        rw [leave, LineUnit.leave_absent (by exact other) (by exact absent)]
        rfl
      exact brings_of_offer (acts ▸ ran) same
    · have kept : keyFunction .send u = u := by
        rw [keyFunction]
        split_ifs with lock
        · rfl
        · have none : ∀ ch w, u.chan ch = some w → w.phase ≠ .pending ∨ w.trigger ≠ .sendKey := by
            have := idle.resolve_left fun h => lock (by simp [Keyboard.locked]; exact h)
            exact fun ch w at_ch => this ch w (by cases ch <;> exact at_ch)
          rw [triggerChan_other (none .ch0)]
          exact congrArg (told .ch1) (triggerChan_other (none .ch1))
      exact brings_of_kick (kept ▸ ran) same
    · have acts : keyFunction .send u = _ := (if_neg (Keyboard.locked_false (by exact free))).trans
        (send_starts (s := u) (by exact ch0) (by exact ch1) phase trigger position copy sinks (by exact found) chain fill sound (by exact clean))
      exact brings_of_kick (acts ▸ ran) fun e => engaged_asked (r := .chan .ch0) (l := s.line) e (by decide) rfl rfl ⟨rfl, rfl, rfl⟩ rfl
    · exact brings_of_kick ran same

end Sys2Proof.Machine
end

section
-- One proof is elaborated at a time: the threads of many at once do not fit the memory a check allows.
set_option Elab.async false

/-! SUPPORT. The commands of the transfer channels (R108 to R124): a channel's start, its hold, its resumption, its stop, and the record
that its answers carry. -/

namespace Sys2Proof.Machine

/-! ## What a byte names -/

theorem chanOf_none {b : Byte} (h : 1 < b.toNat) : chanOf b = none := by
  rw [chanOf, if_neg (by rintro rfl; exact absurd h (by decide)), if_neg (by rintro rfl; exact absurd h (by decide))]

theorem chanOf_names {b : Byte} {c : Chan} (h : b = if c = .ch0 then 0 else 1) : chanOf b = some c := by
  cases h
  cases c <;> rfl

theorem chTriggerOf_none {b : Byte} (h : 2 < b.toNat) : chTriggerOf b = none := by
  rw [chTriggerOf, if_neg (by rintro rfl; exact absurd h (by decide)), if_neg (by rintro rfl; exact absurd h (by decide)),
    if_neg (by rintro rfl; exact absurd h (by decide))]

theorem channelSinks_some {b : Byte} (low : 1 ≤ b.toNat) (high : b.toNat ≤ 7) :
    channelSinks b = some ⟨b.getLsbD 0, b.getLsbD 1, b.getLsbD 2, false⟩ := by
  have store : b.getLsbD 3 = false := by
    rw [BitVec.getLsbD, Nat.testBit_lt_two_pow (by omega)]
  rw [channelSinks, if_pos ⟨low, high⟩, SinkSet.ofByte, store]

/-! ## How an operation on a channel ends -/

/-- What a port started reports to nobody. -/
theorem reportOf_port {w : ChanWork} (h : ∃ q, w.starter = .port q) (r : Report) : reportOf w r = none := by
  obtain ⟨q, port⟩ := h
  rw [reportOf, port]
  rfl

theorem chanToIdle_eq (c : Chan) (w : ChanWork) (s : State) : chanToIdle c w s = ((s.setLine (s.line.leave (.chan c))).setChan c
    none).setStore { s.store with directory := s.store.directory.map (fun q => if q.number = w.message then
      { q with readers := q.readers - 1 } else q) } := by cases c <;> rfl

theorem chanToIdle_setChan (c : Chan) {w v : ChanWork} (same : v.message = w.message) (s : State) :
    chanToIdle c v (s.setChan c (some v)) = chanToIdle c w s := by
  rw [chanToIdle, setChan_setChan, same]
  rfl

/-- A channel that reads the block at its position (R112, R118). -/
theorem proceedChan_reads {c : Chan} {s : State} {w : ChanWork} {r : Record} {q : Nat × Nat} {b : ChainBlock} (at_c : s.chan c = some w)
    (found : s.store.find w.message = some r) (place : locate r.chain w.position = some q) (needs : w.holds q.1 = false)
    (at_q : r.chain[q.1]? = some b) (agrees : b.damaged = false → s.store.wrongOf b.block = [])
    (may : b.damaged = true → w.sinks.transmitter = false) :
    proceedChan c s =
      let u := (if w.sinks.transmitter then s.setLine (s.line.asked (.chan c)) else s).setChan c
        (some { w with phase := .running, copy := some ⟨q.1, s.store.readsAs b, true⟩ })
      if sinksPermanent w.sinks s then holdChan c .sink u else (u, none) := by
  have reads := ensureCopy_read c (w := { w with phase := .running }) needs (s := s.setChan c (some { w with phase := .running }))
    ((findMsg_setChan _ s c _).trans found) at_q (by cases c <;> exact agrees) may
  rw [setChan_setChan] at reads
  exact proceedChan_copied at_c found place (by cases c <;> exact reads)

/-- A channel that has the block at its position (R112). -/
theorem proceedChan_keeps {c : Chan} {s : State} {w : ChanWork} {r : Record} {q : Nat × Nat} (at_c : s.chan c = some w)
    (found : s.store.find w.message = some r) (place : locate r.chain w.position = some q) (holds : w.holds q.1 = true) :
    proceedChan c s =
      let u := (if w.sinks.transmitter then s.setLine (s.line.asked (.chan c)) else s).setChan c (some { w with phase := .running })
      if sinksPermanent w.sinks s then holdChan c .sink u else (u, none) :=
  proceedChan_copied (copy := w.copy) at_c found place (ensureCopy_kept c (w := { w with phase := .running }) holds _)

/-- A channel at the end of a closed message (R115). -/
theorem proceedChan_ends {c : Chan} {s : State} {w : ChanWork} {r : Record} (at_c : s.chan c = some w)
    (found : s.store.find w.message = some r) (place : locate r.chain w.position = none) (closed : r.state ≠ .opened) :
    proceedChan c s = (post (.channelDone c w.message) (chanToIdle c w s), reportOf w .done) := by
  rw [proceedChan, at_c]
  dsimp only
  rw [show findMsg w.message s = some r from found]
  dsimp only
  rw [place]
  dsimp only
  rw [if_neg closed, chanDone, chanToIdle_setChan c (w := w) (v := { w with phase := .running }) rfl]
  rfl

/-- A channel at the end of an OPEN message (R115). -/
theorem proceedChan_waits {c : Chan} {s : State} {w : ChanWork} {r : Record} (at_c : s.chan c = some w)
    (found : s.store.find w.message = some r) (place : locate r.chain w.position = none) (opened : r.state = .opened) :
    proceedChan c s = ((s.setLine (s.line.withdraw (.chan c))).setChan c (some (w.waits r.chain)), none) := by
  rw [proceedChan, at_c]
  dsimp only
  rw [show findMsg w.message s = some r from found]
  dsimp only
  rw [place]
  dsimp only
  rw [if_pos opened]
  cases c <;> rfl

/-- A transmitting channel that needs a DAMAGED block (R117). -/
theorem proceedChan_aborts {c : Chan} {s : State} {w : ChanWork} {r : Record} {q : Nat × Nat} {b : ChainBlock} (at_c : s.chan c = some w)
    (found : s.store.find w.message = some r) (place : locate r.chain w.position = some q) (needs : w.holds q.1 = false)
    (at_q : r.chain[q.1]? = some b) (bad : b.damaged = true) (sends : w.sinks.transmitter = true) :
    proceedChan c s = (post (.channelAborted c w.message w.position) (updateMsg w.message (fun r => { r with
      delivery := if r.delivery = .sending then .failed else r.delivery }) (chanToIdle c w s)), reportOf w .aborted) := by
  have aborts := ensureCopy_aborts c (w := { w with phase := .running }) needs (s := s.setChan c (some { w with phase := .running }))
    ((findMsg_setChan _ s c _).trans found) at_q bad sends
  rw [proceedChan, at_c]
  dsimp only
  rw [show findMsg w.message s = some r from found]
  dsimp only
  rw [place]
  dsimp only
  rw [aborts]
  dsimp only
  rw [if_neg Bool.false_ne_true, chanAbort, chanToIdle_setChan c (w := w) (v := { w with phase := .running }) rfl]
  rfl

theorem noBlockAtEnd_eq (chain : List ChainBlock) (copy : Option Copy) : (if noBlockAtEnd chain then none else copy) =
    match chain.getLast? with
    | none => none
    | some b => if 32 ≤ b.fill then none else copy := by
  unfold noBlockAtEnd
  have size : Config.blockSize = 32 := rfl
  cases chain.getLast? with
  | none => rfl
  | some b =>
    dsimp only
    by_cases full : 32 ≤ b.fill <;> simp [full, size]

/-- One who leaves keeps the transmitter from no character. -/
theorem engaged_leave {s t : State} (h : s.Engaged) (kb : t.kb.typeahead = s.kb.typeahead) {r : Requester}
    (line : t.line = s.line.leave r) : t.Engaged :=
  h.of kb (line ▸ s.line.leave_engaged_fields r) (line ▸ s.line.leave_sublist r)

/-! ## START CHANNEL (R109) -/

/-- START CHANNEL past its refusals. -/
theorem exec_startChannel {p : Port} {channel : Byte} {message position : Half} {sinks trigger : Byte} {s : State} {c : Chan} {r : Record}
    {t : ChTrigger} (names : chanOf channel = some c) (idle : s.chan c = none) (found : s.store.find message.toNat = some r)
    (within : position.toNat ≤ (r.chain.map (·.fill)).sum) (low : 1 ≤ sinks.toNat) (high : sinks.toNat ≤ 7)
    (at_trigger : chTriggerOf trigger = some t) {u : State} (starts : startChan c message.toNat position.toNat
      ⟨sinks.getLsbD 0, sinks.getLsbD 1, sinks.getLsbD 2, false⟩ t (.port p) s = (u, none)) :
    exec (.startChannel p channel message position sinks trigger) s = .next (kick (u.answer p ⟨0x40, .started, none, chanBytes c u⟩)) := by
  change execStartChannel p channel message position sinks trigger s = _
  rw [execStartChannel, names]
  dsimp only
  rw [if_neg (by rw [idle]; exact Bool.false_ne_true), show findMsg message.toNat s = some r from found]
  dsimp only
  rw [if_neg (by rw [Record.length]; omega), channelSinks_some low high, at_trigger]
  dsimp only
  rw [starts]
  rfl

/-- A channel at its start with NOW (R109). -/
def started (c : Chan) (n position : Nat) (k : SinkSet) (p : Port) (s : State) : State :=
  updateMsg n (fun r => { r with readers := r.readers + 1 }) (s.setChan c (some ⟨.pending, n, position, k, .now, true, .port p, none⟩))

theorem updateMsg_updateMsg {n : Nat} {f g : Record → Record} (same : ∀ q, (f q).number = q.number) (s : State) :
    updateMsg n g (updateMsg n f s) = updateMsg n (fun q => g (f q)) s := by
  refine congrArg (fun d => s.setStore { s.store with directory := d }) ?_
  dsimp only [updateMsg, State.setStore, Store.update]
  rw [List.map_map]
  refine List.map_congr_left fun q _ => ?_
  by_cases own : q.number = n <;> simp [own, same]

/-- A start that comes to nothing leaves its message's readers as they stood. -/
theorem started_toIdle {c : Chan} {s : State} (idle : s.chan c = none) (other : s.line.holder ≠ some (.chan c))
    (absent : .chan c ∉ s.line.requests) {n position : Nat} {k : SinkSet} {p : Port} {w : ChanWork} (same : w.message = n) :
    chanToIdle c w (started c n position k p s) = s := by
  have gone : s.setChan c none = s := by cases c <;> exact idle ▸ rfl
  have back : (started c n position k p s).setChan c none = updateMsg n (fun r => { r with readers := r.readers + 1 }) s := by
    conv_rhs => rw [← gone]
    cases c <;> rfl
  have kept : updateMsg n (fun r => { r with readers := r.readers + 1 - 1 }) s = s := by
    refine congrArg (fun d => s.setStore { s.store with directory := d }) ?_
    rw [List.map_congr_left (g := id) fun q _ => by split_ifs <;> rfl, List.map_id]
  rw [chanToIdle, same, back, updateMsg_updateMsg (f := fun r => { r with readers := r.readers + 1 }) fun q => rfl, kept, leave, LineUnit.leave_absent other absent]
  rfl

theorem startChan_now (c : Chan) (n position : Nat) (k : SinkSet) (p : Port) (s : State) :
    startChan c n position k .now (.port p) s = proceedChan c (started c n position k p s) := rfl

/-- Settles O44. -/
theorem channelsStart : Obligations.ChannelsStart := by
  intro p channel message position sinks trigger s c
  refine ⟨fun past => ?_, fun ch at_ch => ?_⟩
  · change execStartChannel p channel message position sinks trigger s = _
    rw [execStartChannel, chanOf_none past]
    rfl
  have names := chanOf_names at_ch
  refine ⟨fun busy => ?_, fun idle absent => ?_, fun r idle found => ⟨fun bad => ?_, fun within low high => ?_⟩⟩
  · change execStartChannel p channel message position sinks trigger s = _
    rw [execStartChannel, names]
    exact if_pos (Option.isSome_iff_ne_none.mpr busy)
  · change execStartChannel p channel message position sinks trigger s = _
    rw [execStartChannel, names]
    dsimp only
    rw [if_neg (by rw [idle]; exact Bool.false_ne_true), show findMsg message.toNat s = none from Store.find_absent absent]
    rfl
  · change execStartChannel p channel message position sinks trigger s = _
    rw [execStartChannel, names]
    dsimp only
    rw [if_neg (by rw [idle]; exact Bool.false_ne_true), show findMsg message.toNat s = some r from found]
    dsimp only
    split_ifs with beyond
    · rfl
    rcases bad with past | empty | many | other
    · exact absurd past beyond
    · rw [empty]
      rfl
    · rw [channelSinks, if_neg (by omega)]
      rfl
    · rw [chTriggerOf_none other]
      cases channelSinks sinks <;> rfl
  intro k read
  have runs {t : ChTrigger} {u : State} (at_trigger : chTriggerOf trigger = some t)
      (starts : startChan ch message.toNat position.toNat k t (.port p) s = (u, none)) :
      exec c s = .next (kick (u.answer p ⟨0x40, .started, none, chanBytes ch u⟩)) :=
    exec_startChannel names idle found within low high at_trigger starts
  refine ⟨fun t waits => ⟨_, rfl, ?_⟩, fun before b after now chain from_here in_b => ⟨fun whole agrees printer punch => ⟨_, rfl, ?_⟩,
    fun bad sends other absent => ⟨_, rfl, ?_⟩⟩⟩
  · have at_trigger : chTriggerOf trigger = some t := by
      rcases waits with ⟨rfl, rfl⟩ | ⟨rfl, rfl⟩ <;> rfl
    refine brings_of_kick (runs at_trigger ?_) fun e => answer_engaged (by cases ch <;> exact e) p _
    rcases waits with ⟨rfl, _⟩ | ⟨rfl, _⟩ <;> cases ch <;> rfl
  all_goals
    have sum : position.toNat = (before.map (·.fill)).sum + (position.toNat - (before.map (·.fill)).sum) := by omega
    have place := locate_block chain sum (by omega)
    have same : findMsg message.toNat (started ch message.toNat position.toNat k p s) = some { r with readers := r.readers + 1 } :=
      Store.find_update (f := fun r => { r with readers := r.readers + 1 }) (by cases ch <;> exact found) fun _ => rfl
    have there : (started ch message.toNat position.toNat k p s).chan ch = some
      ⟨.pending, message.toNat, position.toNat, k, .now, true, .port p, none⟩ := by cases ch <;> rfl
  · have free : ¬ sinksPermanent k (started ch message.toNat position.toNat k p s) = true := by
      rw [sinksPermanent_iff]
      rintro (⟨given, fault⟩ | ⟨given, off⟩)
      · exact printer given (by cases ch <;> exact fault)
      · exact punch given (by cases ch <;> exact off)
    have reads := proceedChan_reads there same place rfl (getElem?_split chain) (fun _ => by cases ch <;> exact agrees)
      fun bad => absurd (whole.symm.trans bad) Bool.false_ne_true
    dsimp only at reads
    rw [if_neg free, Store.readsAs_sound whole] at reads
    refine brings_of_kick (runs (by rw [now]; rfl) ((startChan_now ..).trans (reads.trans ?_))) fun e => answer_engaged ?_ p _
    · cases ch <;> cases k.transmitter <;> rfl
    · cases sends : k.transmitter with
      | false => cases ch <;> exact e
      | true => exact engaged_asked (r := .chan ch) (l := s.line) e (by cases ch <;> decide) (by cases ch <;> rfl) rfl ⟨rfl, rfl, rfl⟩ (by cases ch <;> rfl)
  · have aborts := proceedChan_aborts there same place rfl (getElem?_split chain) bad sends
    refine brings_of_kick (runs (by rw [now]; rfl) ((startChan_now ..).trans (aborts.trans ?_))) fun e => answer_engaged (by exact e) p _
    rw [started_toIdle idle (by exact other) (by exact absent) rfl]
    rfl

end Sys2Proof.Machine
end

section
-- One proof is elaborated at a time: the threads of many at once do not fit the memory a check allows.
set_option Elab.async false

/-! SUPPORT. HOLD, RESUME, STOP and READ (R120 to R124), and the channel record that they answer (R193). -/

namespace Sys2Proof.Machine

/-! ## The channel record (R193) -/

theorem channelMarks_eq (held copied : Bool) : (1 + 2 * boolOf held + 4 * boolOf copied : Byte)
    = byteOf (1 + (if held then 2 ^ 1 else 0) + if copied then 2 ^ 2 else 0) := by cases held <;> cases copied <;> rfl

theorem SinkSet.toByte_eq (k : SinkSet) : k.toByte = byteOf ((if k.transmitter then 2 ^ 0 else 0) + (if k.printer then 2 ^ 1 else 0)
    + (if k.punch then 2 ^ 2 else 0) + if k.store then 2 ^ 3 else 0) := by
  obtain ⟨transmitter, printer, punch, store⟩ := k
  revert transmitter printer punch store
  decide

/-- Why a channel is held. -/
def ChanWork.why (w : ChanWork) : Option HoldReason := match w.phase with
  | .held r => some r
  | _ => none

theorem chanBytes_works {c : Chan} {s : State} {w : ChanWork} (at_c : s.chan c = some w) : chanBytes c s =
    [byteOf (1 + (if w.why.isSome then 2 ^ 1 else 0) + if w.copy.isSome then 2 ^ 2 else 0),
        match w.phase with | .pending => 1 | .running => 2 | .waiting => 3 | .held _ => 4]
      ++ halfOf w.message ++ halfOf w.position
      ++ [w.sinks.toByte, match w.trigger with | .now => 0 | .sendKey => 1 | .callOut => 2,
        if w.occurred then 1 else 0,
        match w.starter with | .port .s => 0 | .port .x => 1 | .sequencer => 2,
        match w.why with
          | some .lineBreak => 0 | some .key => 1 | some .callEnd => 2 | some .command => 3 | some .sink => 4 | none => 0xFF]
      ++ (match w.copy with | some k => halfOf k.index ++ [if k.valid then 1 else 0] | none => [0, 0, 0xFF])
      ++ [grantByte c s] ++ halfOf (match s.store.find w.message with | some r => r.length | none => 0) := by
  have trigger : byteOf w.trigger.index = match w.trigger with | .now => 0 | .sendKey => 1 | .callOut => 2 := by
    cases w.trigger <;> rfl
  have starter : byteOf w.starter.index = match w.starter with | .port .s => 0 | .port .x => 1 | .sequencer => 2 := by
    cases w.starter with
    | sequencer => rfl
    | port p => cases p <;> rfl
  have state : byteOf (chanStateIndex (some w)) = match w.phase with | .pending => 1 | .running => 2 | .waiting => 3 | .held _ => 4 := by
    cases at_phase : w.phase <;> simp only [chanStateIndex, at_phase] <;> rfl
  have reason (r : HoldReason) : byteOf r.index = match some r with
      | some .lineBreak => 0 | some .key => 1 | some .callEnd => 2 | some .command => 3 | some .sink => 4 | none => 0xFF := by
    cases r <;> rfl
  rw [chanBytes, at_c]
  dsimp only
  rw [channelMarks_eq, trigger, starter, state]
  cases at_phase : w.phase with
  | held r =>
    have why : w.why = some r := by rw [ChanWork.why, at_phase]
    rw [why, ← reason r]
    cases w.copy <;> rfl
  | _ =>
    have why : w.why = none := by rw [ChanWork.why, at_phase]
    rw [why]
    cases w.copy <;> rfl

/-! ## The commands -/

theorem holdChan_idle {c : Chan} {s : State} (idle : s.chan c = none) (why : HoldReason) : holdChan c why s = (s, none) := by
  rw [holdChan, idle]

theorem holdChan_held {c : Chan} {s : State} {w : ChanWork} (at_c : s.chan c = some w) {r : HoldReason} (held : w.phase = .held r)
    (why : HoldReason) : holdChan c why s = (s, none) := by
  rw [holdChan, at_c]
  dsimp only
  rw [held]

/-- A hold of a channel that a port started. -/
theorem holdChan_works {c : Chan} {s : State} {w : ChanWork} (at_c : s.chan c = some w) (unheld : ∀ r, w.phase ≠ .held r)
    (port : ∃ q, w.starter = .port q) (why : HoldReason) : holdChan c why s = (post (.channelHeld c w.message w.position why)
      ((s.setLine (s.line.leave (.chan c))).setChan c (some { w with phase := .held why })), none) := by
  obtain ⟨rep, holds, silent⟩ := holdChan_eq c why s
  rw [holds, State.heldFor_works at_c unheld]
  rcases silent with rfl | ⟨v, at_v, rfl⟩
  · rfl
  · cases at_c.symm.trans at_v
    rw [reportOf_port port]

theorem exec_hold {p : Port} {channel : Byte} {s u : State} {c : Chan} (names : chanOf channel = some c) (busy : s.chan c ≠ none)
    (holds : holdChan c .command s = (u, none)) :
    exec (.hold p channel) s = .next (kick (u.answer p ⟨0x41, .done, none, chanBytes c u⟩)) := by
  change execHold p channel s = _
  rw [execHold, names]
  dsimp only
  rw [if_neg (by simpa using busy), holds]
  rfl

theorem exec_resume {p : Port} {channel : Byte} {s u : State} {c : Chan} {w : ChanWork} (names : chanOf channel = some c)
    (at_c : s.chan c = some w) {why : HoldReason} (held : w.phase = .held why) (resumes : resumeChan c w s = (u, none)) :
    exec (.resume p channel) s = .next (kick (u.answer p ⟨0x42, .done, none, chanBytes c u⟩)) := by
  change execResume p channel s = _
  rw [execResume, names]
  dsimp only
  rw [at_c]
  dsimp only
  rw [held]
  dsimp only
  rw [resumes]
  rfl

theorem exec_stopChannel {p : Port} {channel : Byte} {s u : State} {c : Chan} (names : chanOf channel = some c)
    (stops : stopChan c s = (u, none)) :
    exec (.stopChannel p channel) s = .next (kick (u.answer p ⟨0x43, .done, none, chanBytes c u⟩)) := by
  change execStopChannel p channel s = _
  rw [execStopChannel, names]
  dsimp only
  rw [stops]
  rfl

/-- A request and a departure keep the transmitter from no character. -/
theorem engaged_asks {s t : State} (h : s.Engaged) (c : Chan) (sends : Bool) (kb : t.kb.typeahead = s.kb.typeahead)
    (line : t.line = if sends then s.line.asked (.chan c) else s.line) : t.Engaged := by
  cases sends with
  | false => exact h.of kb (line ▸ ⟨rfl, rfl, rfl⟩) (line ▸ List.Sublist.refl _)
  | true => exact engaged_asked (r := .chan c) (l := s.line) h (by cases c <;> decide) kb rfl ⟨rfl, rfl, rfl⟩ line

/-- A channel goes on from the block at its position, which it has, or which is undamaged and reads clean (R112). -/
theorem proceedChan_clean {c : Chan} {s : State} {w : ChanWork} {r : Record} {before after : List ChainBlock} {b : ChainBlock}
    {copy : Option Copy} (at_c : s.chan c = some w) (found : s.store.find w.message = some r) (chain : r.chain = before ++ b :: after)
    (from_here : (before.map (·.fill)).sum ≤ w.position) (in_b : w.position < (before.map (·.fill)).sum + b.fill)
    (copied : (∃ held, w.copy = some ⟨before.length, held, true⟩ ∧ copy = w.copy)
      ∨ (∀ held, w.copy ≠ some ⟨before.length, held, true⟩) ∧ b.damaged = false ∧ s.store.wrongOf b.block = []
        ∧ copy = some ⟨before.length, (s.store.blockBytes b.block).map Symbol.ofByte, true⟩) :
    proceedChan c s =
      let u := (if w.sinks.transmitter then s.setLine (s.line.asked (.chan c)) else s).setChan c
        (some { w with phase := .running, copy := copy })
      if sinksPermanent w.sinks s then holdChan c .sink u else (u, none) := by
  have place := locate_block chain (n := w.position) (off := w.position - (before.map (·.fill)).sum) (by omega) (by omega)
  rcases copied with ⟨held, at_copy, rfl⟩ | ⟨needs, whole, agrees, rfl⟩
  · exact proceedChan_keeps at_c found place (by simp [ChanWork.holds, at_copy])
  · have absent : w.holds before.length = false := by
      unfold ChanWork.holds
      cases at_copy : w.copy with
      | none => rfl
      | some k =>
        obtain ⟨index, symbols, valid⟩ := k
        rw [Bool.eq_false_iff]
        intro holds
        simp only [Bool.and_eq_true, beq_iff_eq] at holds
        obtain ⟨rfl, rfl⟩ := holds
        exact needs symbols at_copy
    rw [proceedChan_reads at_c found place absent (getElem?_split chain) (fun _ => agrees)
      (fun bad => absurd (whole.symm.trans bad) Bool.false_ne_true), Store.readsAs_sound whole]

theorem resumeChan_occurred (c : Chan) {w : ChanWork} (occurred : w.occurred = true) (s : State) : resumeChan c w s = proceedChan c s :=
  if_pos occurred

/-- Settles O45. -/
theorem channelsAreCommanded : Obligations.ChannelsAreCommanded := by
  refine ⟨?_, fun p channel s => ⟨fun past => ?_, ?_⟩⟩
  · intro ch s two bit grant
    refine ⟨fun idle => ?_, fun w at_ch => ?_⟩
    · rw [chanBytes, idle]
      rfl
    · rw [chanBytes_works at_ch, SinkSet.toByte_eq]
      rfl
  · have none := chanOf_none past
    refine ⟨?_, ?_, ?_, ?_⟩
    · change execHold p channel s = _
      rw [execHold, none]
      rfl
    · change execResume p channel s = _
      rw [execResume, none]
      rfl
    · change execStopChannel p channel s = _
      rw [execStopChannel, none]
      rfl
    · change execReadChannel p channel s = _
      rw [execReadChannel, none]
      rfl
  intro ch at_channel out
  have names := chanOf_names at_channel
  refine ⟨?_, fun idle => ⟨?_, ?_, ?_⟩, fun w at_ch port => ⟨fun unheld => ⟨_, rfl, ?_, ?_⟩, fun ⟨why, held⟩ => ⟨?_, fun before => ⟨_, rfl, ?_⟩,
    fun r occurred found => ⟨?_, fun at_end closed => ⟨_, rfl, ?_⟩, fun at_end opened => ⟨_, rfl, ?_⟩⟩⟩, _, rfl, ?_⟩⟩
  · change execReadChannel p channel s = _
    rw [execReadChannel, names]
    rfl
  · change execHold p channel s = _
    rw [execHold, names]
    exact if_pos (by rw [idle]; rfl)
  · change execResume p channel s = _
    rw [execResume, names]
    dsimp only
    rw [idle]
    rfl
  · exact leaves_of_kick (exec_stopChannel names (by rw [stopChan, idle]))
  · exact leaves_of_kick (exec_hold names (by rw [at_ch]; exact Option.some_ne_none w) (holdChan_works at_ch unheld port .command))
  · change execResume p channel s = _
    rw [execResume, names]
    dsimp only
    rw [at_ch]
    dsimp only
    split
    · next r held => exact absurd held (unheld r)
    · rfl
  · exact leaves_of_kick (exec_hold names (by rw [at_ch]; exact Option.some_ne_none w) (holdChan_held at_ch held .command))
  · exact leaves_of_kick (exec_resume names at_ch held (by rw [resumeChan, before]; rfl))
  · intro before b after copy chain from_here in_b copied refused
    have proceeds := proceedChan_clean at_ch found chain from_here in_b copied
    dsimp only at proceeds
    have resumes := resumeChan_occurred ch occurred s
    refine ⟨fun open_sinks => ⟨_, rfl, ?_⟩, fun shut => ⟨_, rfl, ?_⟩⟩
    · rw [if_neg (mt (sinksPermanent_iff w.sinks s).mp open_sinks)] at proceeds
      refine brings_of_kick (exec_resume names at_ch held (resumes.trans proceeds)) fun e => answer_engaged ?_ p _
      exact engaged_asks e ch w.sinks.transmitter (by cases w.sinks.transmitter <;> cases ch <;> rfl)
        (by cases w.sinks.transmitter <;> cases ch <;> rfl)
    · rw [if_pos ((sinksPermanent_iff w.sinks s).mpr shut), holdChan_works (c := ch) (w := { w with phase := .running, copy := copy })
        (by cases ch <;> rfl) (fun r h => ChPhase.noConfusion h) port] at proceeds
      refine brings_of_kick (exec_resume names at_ch held (resumes.trans (proceeds.trans ?_))) fun e => answer_engaged ?_ p _
      · cases w.sinks.transmitter <;> cases ch <;> rfl
      · refine engaged_leave (r := .chan ch) (engaged_asks (t := if w.sinks.transmitter then s.setLine (s.line.asked (.chan ch)) else s) e ch
          w.sinks.transmitter ?_ ?_) ?_ ?_ <;> cases w.sinks.transmitter <;> cases ch <;> rfl
  · have place : locate r.chain w.position = none := locate_none (by rw [at_end])
    have ends := proceedChan_ends at_ch found place closed
    rw [reportOf_port port, chanToIdle_eq] at ends
    refine brings_of_kick (exec_resume names at_ch held ((resumeChan_occurred ch occurred s).trans ends)) fun e => answer_engaged ?_ p _
    exact engaged_leave (r := .chan ch) e (by cases ch <;> rfl) (by cases ch <;> rfl)
  · have place : locate r.chain w.position = none := locate_none (by rw [at_end])
    have waits := proceedChan_waits at_ch found place opened
    rw [ChanWork.waits, noBlockAtEnd_eq] at waits
    refine brings_of_kick (exec_resume names at_ch held ((resumeChan_occurred ch occurred s).trans waits)) fun e => answer_engaged ?_ p _
    exact e.of (by cases ch <;> rfl) (by cases ch <;> exact ⟨rfl, rfl, rfl⟩) (by cases ch <;> exact List.filter_sublist)
  · have stops : stopChan ch s = (post (.channelStopped ch w.message w.position) (chanToIdle ch w s), none) := by
      rw [stopChan, at_ch]
      dsimp only
      rw [reportOf_port port]
    rw [chanToIdle_eq] at stops
    exact leaves_of_kick (exec_stopChannel names stops)

end Sys2Proof.Machine
end

section
-- One proof is elaborated at a time: the threads of many at once do not fit the memory a check allows.
set_option Elab.async false

/-! SUPPORT. A channel gives its symbol (R34, R35, R68, R114): to the printer and the punch at its own row, to the transmitter at the end
of a character. -/

namespace Sys2Proof.Machine

/-! ## Sinks that take a symbol stay able to work (R62) -/

theorem Printer.takeFrom_works (p : Printer) (ys : List Symbol) : (p.takeFrom ys).engine = .idle ∨ (p.takeFrom ys).engine = .busy := by
  induction ys generalizing p with
  | nil => exact .inl rfl
  | cons y ys ih =>
    unfold Printer.takeFrom
    cases y.kind with
    | bell => exact ih _
    | blank => exact ih p
    | explicitShift => exact ih p
    | wru => exact ih p
    | _ => exact .inr rfl

theorem Printer.accept_offer {p : Printer} (takes : p.offer = .takes) (y : Symbol) : (p.accept y).offer ≠ .permanent := by
  rw [Ne, Printer.offer_permanent]
  have works : p.engine ≠ .fault := fun fault => by
    rw [(Printer.offer_permanent p).mpr fault] at takes
    cases takes
  unfold Printer.accept
  dsimp only
  split_ifs
  · exact fun fault => (Printer.takeFrom_works _ _).elim (fun h => by cases h.symm.trans fault) fun h => by cases h.symm.trans fault
  · exact works

theorem Punch.accept_offer {p : Punch} (takes : p.offer = .takes) (y : Symbol) : (p.accept y).offer ≠ .permanent := by
  rw [Ne, Punch.offer_permanent]
  have works : p.engine ≠ .off := fun off => by
    rw [(Punch.offer_permanent p).mpr off] at takes
    cases takes
  unfold Punch.accept
  dsimp only
  split_ifs
  · unfold Punch.take
    split
    · exact fun off => by cases off
    · unfold Punch.beginRow
      split <;> exact fun off => by cases off
  · exact works

/-! ## The symbol at a channel's position (R114) -/

theorem chanSymbol_copied {w : ChanWork} {s : State} {r : Record} {before after : List ChainBlock} {b : ChainBlock} {off : Nat}
    {copied : List Symbol} {y : Symbol} (found : s.store.find w.message = some r) (chain : r.chain = before ++ b :: after)
    (position : w.position = (before.map (·.fill)).sum + off) (inside : off < b.fill) (copy : w.copy = some ⟨before.length, copied, true⟩)
    (at_off : copied[off]? = some y) : chanSymbol w s = some y := by
  have holds : w.holds before.length = true := by simp [ChanWork.holds, copy]
  rw [chanSymbol, show findMsg w.message s = some r from found, Option.bind_some, locate_block chain position inside, Option.bind_some]
  dsimp only
  rw [if_pos holds, copy, Option.bind_some, at_off]

/-! ## Where a channel goes on after a delivery -/

theorem sum_empties {after : List ChainBlock} (empty : ∀ k ∈ after, k.fill = 0) : (after.map (·.fill)).sum = 0 := by
  rw [List.sum_eq_zero_iff]
  intro n inside
  obtain ⟨k, at_k, rfl⟩ := List.mem_map.mp inside
  exact empty k at_k

theorem locate_past {chain before after : List ChainBlock} {b : ChainBlock} (split : chain = before ++ b :: after) {n : Nat}
    (at_n : n = (before.map (·.fill)).sum + b.fill) (empty : ∀ k ∈ after, k.fill = 0) : locate chain n = none := by
  refine locate_none ?_
  rw [split, List.map_append, List.sum_append, List.map_cons, List.sum_cons, sum_empties empty]
  omega

theorem locate_next {chain before ks : List ChainBlock} {b k : ChainBlock} (split : chain = before ++ b :: k :: ks) {n : Nat}
    (at_n : n = (before.map (·.fill)).sum + b.fill) (some : 1 ≤ k.fill) : locate chain n = .some (before.length + 1, 0) := by
  have place := locate_block (before := before ++ [b]) (b := k) (after := ks) (chain := chain) (n := n) (off := 0) (by rw [split]; simp)
    (by simp [at_n]) (by omega)
  rwa [List.length_append] at place

theorem getElem?_next {chain before ks : List ChainBlock} {b k : ChainBlock} (split : chain = before ++ b :: k :: ks) :
    chain[before.length + 1]? = some k := by
  have there := getElem?_split (before := before ++ [b]) (b := k) (after := ks) (chain := chain) (by rw [split]; simp)
  rwa [List.length_append] at there

/-- A channel WAITING at the end keeps its copy but where its last block is full (R112; log entry 46). -/
theorem noBlockAtEnd_last {before after : List ChainBlock} {b : ChainBlock} (empty : ∀ k ∈ after, k.fill = 0) (copy : Option Copy) :
    (if noBlockAtEnd (before ++ b :: after) then none else copy) = if after = [] ∧ 32 ≤ b.fill then none else copy := by
  rw [noBlockAtEnd_eq]
  rcases List.eq_nil_or_concat after with rfl | ⟨ks, k, rfl⟩
  · simp
  · have last : k.fill = 0 := empty k (by simp)
    rw [show before ++ b :: ks.concat k = (before ++ b :: ks) ++ [k] by simp, List.getLast?_concat]
    simp [last]

/-! ## PRINTER and PUNCH (R68) -/

theorem sinksReady_iff (k : SinkSet) (s : State) : sinksReady k s = true ↔
    (k.printer = true → s.printer.offer = .takes) ∧ (k.punch = true → s.punch.offer = .takes) := by
  unfold sinksReady
  cases k.printer <;> cases k.punch <;> simp

theorem sinksTake_eq (k : SinkSet) (y : Symbol) (s : State) : sinksTake k y s = { s with
    printer := if k.printer then s.printer.accept y else s.printer
    punch := if k.punch then s.punch.accept y else s.punch } := by
  unfold sinksTake
  cases k.printer <;> cases k.punch <;> rfl

theorem exec_channelDelivery {c : Chan} {s : State} {w : ChanWork} {y : Symbol} (at_c : s.chan c = some w) (running : w.phase = .running)
    (silent : w.sinks.transmitter = false) (ready : sinksReady w.sinks s = true) (symbol : chanSymbol w s = some y) :
    exec (.channelDelivery c) s = .next (kick (told c (proceedChan c ((sinksTake w.sinks y s).setChan c
      (some { w with position := w.position + 1 }))))) := by
  have deliverable : chanDeliverable c s = some (w, y) := by
    rw [chanDeliverable, at_c]
    dsimp only
    rw [if_pos ⟨running, silent, ready⟩, symbol]
    rfl
  have there : (sinksTake w.sinks y s).chan c = some w := by
    rw [sinksTake_eq]
    cases c <;> exact at_c
  change execChannelDelivery c s = _
  rw [execChannelDelivery, deliverable]
  dsimp only
  rw [advanceChan, there]

/-- Sinks that have just taken a symbol refuse no channel permanently. -/
theorem sinksTake_open {k : SinkSet} {s : State} (ready : sinksReady k s = true) (y : Symbol) : ¬ sinksPermanent k (sinksTake k y s) = true := by
  obtain ⟨printer, punch⟩ := (sinksReady_iff k s).mp ready
  rw [sinksPermanent_iff, sinksTake_eq]
  rintro (⟨given, fault⟩ | ⟨given, off⟩)
  · exact Printer.accept_offer (printer given) y ((Printer.offer_permanent _).mpr (by rw [← fault]; simp [given]))
  · exact Punch.accept_offer (punch given) y ((Punch.offer_permanent _).mpr (by rw [← off]; simp [given]))

theorem updateMsg_chanToIdle (c : Chan) (w : ChanWork) (f : Record → Record) (s : State) : updateMsg w.message f (chanToIdle c w s) =
    ((s.setLine (s.line.leave (.chan c))).setChan c none).setStore { s.store with
      directory := s.store.directory.map fun q => if q.number = w.message then f { q with readers := q.readers - 1 } else q } := by
  have idle : chanToIdle c w s = updateMsg w.message (fun q => { q with readers := q.readers - 1 })
      ((s.setLine (s.line.leave (.chan c))).setChan c none) := by cases c <;> rfl
  rw [idle, updateMsg_updateMsg (f := fun q => { q with readers := q.readers - 1 }) fun _ => rfl]
  cases c <;> rfl

/-! ## TRANSMITTER alone (R34, R35) -/

/-- The transmitter's character for a symbol that is not copied to any sink. -/
def State.puts (s : State) (y : Symbol) : State := s.setLine { s.line with
  txChar := some ⟨(emission s.line.txCase y).2, s.line.stopLen, (emission s.line.txCase y).1⟩
  txCase := caseAfter s.line.txUsos s.line.txCase (emission s.line.txCase y).2 }

/-- The same with the SENT copy delivered (R16, R66). -/
def State.speaks (s : State) (y : Symbol) : State :=
  (s.puts y).copied (sentSymbol (emission s.line.txCase y).1 (emission s.line.txCase y).2 y)

theorem putChar_speaks (s : State) (y : Symbol) : putChar (emission s.line.txCase y).1 (emission s.line.txCase y).2 y
    (s.setLine { s.line with txChar := none }) = s.speaks y := putChar_eq ..

/-- The holder of the grant is asked at the end of a character (R35). -/
theorem charEnd_holder {s : State} (empty : s.kb.typeahead = []) (absent : .keyboard ∉ s.line.requests) (ab : s.line.abState = .none)
    (enabled : s.line.txEnable = true) (rate : s.line.pendingRate = none) {r : Requester} (own : s.line.holder = some r) :
    charEnd s = settleKeyboard (match r with
      | .keyboard => takeKeyboard (s.setLine { s.line with txChar := none })
      | .chan c => takeChan c (s.setLine { s.line with txChar := none })
      | .control => takeControl (s.setLine { s.line with txChar := none })) := by
  obtain ⟨u, at_u⟩ : ∃ u, u = s.setLine { s.line with txChar := none } := ⟨_, rfl⟩
  have free : u.line.txChar = none := by rw [at_u]; rfl
  have settled : settleKeyboard u = u := settleKeyboard_absent (by rw [at_u]; exact empty) (by rw [at_u]; exact absent)
  have given : takeNext u = takeHolder u := by
    rw [takeNext, show u.line.abState = .none from at_u ▸ ab]
  rw [charEnd_kick (.inl (by rw [ab]; exact fun h => AbState.noConfusion h)), ← at_u, kick_free free settled, given,
    takeHolder, if_pos ⟨show u.line.txEnable = true from at_u ▸ enabled, show u.line.pendingRate = none from at_u ▸ rate⟩,
    show u.line.holder = some r from at_u ▸ own]
  cases r <;> rfl

/-- A channel bound for the transmitter alone, which holds the grant, at the end of a character. -/
theorem charEnd_chan_speaks {c : Chan} {s : State} {w : ChanWork} {y : Symbol} (empty : s.kb.typeahead = [])
    (absent : .keyboard ∉ s.line.requests) (own : s.line.holder = some (.chan c)) (ab : s.line.abState = .none)
    (enabled : s.line.txEnable = true) (rate : s.line.pendingRate = none) (at_c : s.chan c = some w) (running : w.phase = .running)
    (only : w.sinks = ⟨true, false, false, false⟩) (symbol : chanSymbol w s = some y) :
    charEnd s = settleKeyboard (if (emission s.line.txCase y).1 then s.speaks y
      else told c (proceedChan c ((s.speaks y).setChan c (some { w with position := w.position + 1 })))) := by
  obtain ⟨u, at_u⟩ : ∃ u, u = s.setLine { s.line with txChar := none } := ⟨_, rfl⟩
  have taken : takeChan c u = if (emission s.line.txCase y).1 then s.speaks y
      else told c (proceedChan c ((s.speaks y).setChan c (some { w with position := w.position + 1 }))) := by
    have ready : sinksReady w.sinks u = true := by rw [only]; rfl
    have spares : sinksTake w.sinks y u = u := by rw [only]; rfl
    have there : (s.speaks y).chan c = some w := by cases c <;> exact at_c
    have speaks := putChar_speaks s y
    rw [← at_u] at speaks
    rw [takeChan, show u.chan c = some w by rw [at_u]; cases c <;> exact at_c]
    dsimp only
    rw [show chanSymbol w u = some y by rw [at_u]; exact symbol]
    dsimp only
    rw [if_pos ⟨running, by rw [only], ready⟩, spares, show u.line.txCase = s.line.txCase by rw [at_u]; rfl]
    cases shift : (emission s.line.txCase y).1 with
    | true => rw [if_pos rfl, if_pos rfl, ← speaks, shift]
    | false =>
      rw [if_neg Bool.false_ne_true, if_neg Bool.false_ne_true, ← shift, speaks]
      rw [advanceChan, there]
  rw [charEnd_holder empty absent ab enabled rate own, ← at_u]
  exact congrArg settleKeyboard taken

theorem speaks_nowhere {s : State} (row : s.dist.rowSent = ⟨false, false, false, false⟩) (idle : s.calls.state = .idle)
    (closed : s.store.slotLine = none) (y : Symbol) : s.speaks y = s.puts y :=
  copied_nowhere (by exact row) (by exact idle) (by exact closed) _

/-- Settles O46. -/
theorem channelsDeliver : Obligations.ChannelsDeliver := by
  refine ⟨?_, ?_⟩
  · intro ch s w r before b after off copied y at_ch running silent port found chain position inside copy at_off printer punch
    have ready : sinksReady w.sinks s = true := (sinksReady_iff _ s).mpr ⟨printer, punch⟩
    have ran := exec_channelDelivery at_ch running silent ready (chanSymbol_copied found chain position inside copy at_off)
    have shut := sinksTake_open ready y
    rw [sinksTake_eq] at ran shut
    obtain ⟨given, at_given⟩ : ∃ given : State, given = { s with
        printer := if w.sinks.printer then s.printer.accept y else s.printer
        punch := if w.sinks.punch then s.punch.accept y else s.punch } := ⟨_, rfl⟩
    rw [← at_given] at ran shut
    have store : given.store = s.store := by rw [at_given]
    have line : given.line = s.line := by rw [at_given]
    generalize at_moved : given.setChan ch (some { w with position := w.position + 1 }) = moved at ran
    have there : moved.chan ch = some { w with position := w.position + 1 } := by rw [← at_moved]; cases ch <;> rfl
    have same_store : moved.store = s.store := by rw [← at_moved]; cases ch <;> exact store
    have found' : moved.store.find w.message = some r := same_store ▸ found
    have shut' : ¬ sinksPermanent w.sinks moved = true := by rw [← at_moved]; cases ch <;> exact shut
    have again (v : Option ChanWork) : moved.setChan ch v = given.setChan ch v := by rw [← at_moved, setChan_setChan]
    refine ⟨given, at_given, fun more => ?_, fun k ks last next some_next sound => ?_, fun last empty opened => ?_,
      fun last empty closed => ?_⟩
    · have goes := proceedChan_keeps there found' (locate_block chain (off := off + 1) (by dsimp only; omega) more)
        (by simp [ChanWork.holds, copy])
      dsimp only at goes
      rw [if_neg shut', silent, if_neg Bool.false_ne_true, again] at goes
      rw [goes, told_silent] at ran
      rw [running]
      exact leaves_of_kick ran
    · have split : r.chain = before ++ b :: k :: ks := next ▸ chain
      have at_next : w.position + 1 = (before.map (·.fill)).sum + b.fill := by omega
      have goes := proceedChan_reads there found' (locate_next split at_next some_next) (by simp [ChanWork.holds, copy])
        (getElem?_next split) (fun whole =>
          same_store ▸ sound.resolve_left fun bad => Bool.false_ne_true (whole.symm.trans bad)) fun _ => silent
      dsimp only at goes
      rw [if_neg shut', silent, if_neg Bool.false_ne_true, again] at goes
      rw [goes, told_silent, same_store] at ran
      rw [running]
      exact leaves_of_kick ran
    · have goes := proceedChan_waits there found' (locate_past chain (n := w.position + 1) (by omega) empty) opened
      rw [ChanWork.waits, chain, noBlockAtEnd_last empty] at goes
      rw [goes, told_silent] at ran
      have at_end : (moved.setLine (moved.line.withdraw (.chan ch))) = (given.setLine (s.line.withdraw (.chan ch))).setChan ch
          (some { w with position := w.position + 1 }) := by rw [← at_moved, ← line]; cases ch <;> rfl
      rw [at_end, setChan_setChan] at ran
      exact leaves_of_kick ran
    · have goes := proceedChan_ends there found' (locate_past chain (n := w.position + 1) (by omega) empty) closed
      rw [reportOf_port (by exact port)] at goes
      rw [goes, told_silent, ← at_moved, chanToIdle_setChan ch (w := w) (v := { w with position := w.position + 1 }) rfl, chanToIdle_eq, store, line] at ran
      exact leaves_of_kick ran
  · intro ch s w r before b after off copied y k busy empty absent own ab enabled rate row slot idle at_ch running only found chain
      position inside copy at_off code
    have symbol := chanSymbol_copied found chain position inside copy at_off
    have ran := exec_characterEnd busy
    rw [charEnd_chan_speaks empty absent own ab enabled rate at_ch running only symbol, speaks_nowhere row idle slot] at ran
    have rests {t : State} (kb : t.kb = s.kb) (list : t.line.requests.Sublist s.line.requests) : settleKeyboard t = t :=
      settleKeyboard_absent (kb ▸ empty) fun h => absent (list.subset h)
    generalize at_moved : (s.puts y).setChan ch (some { w with position := w.position + 1 }) = moved at ran
    have there : moved.chan ch = some { w with position := w.position + 1 } := by rw [← at_moved]; cases ch <;> rfl
    have store : moved.store = s.store := by rw [← at_moved]; cases ch <;> rfl
    have line_of : moved.line = (s.puts y).line := by rw [← at_moved]; cases ch <;> rfl
    have kb : moved.kb = s.kb := by rw [← at_moved]; cases ch <;> rfl
    have found' : moved.store.find w.message = some r := store ▸ found
    have shut : ¬ sinksPermanent w.sinks moved = true := by rw [only]; exact Bool.false_ne_true
    have sends : w.sinks.transmitter = true := by rw [only]
    have known : moved.line.asked (.chan ch) = moved.line := by
      rw [← LineUnit.request_asked, line_of]
      exact if_pos (.inl own)
    have again (v : Option ChanWork) : (moved.setLine moved.line).setChan ch v = (s.puts y).setChan ch v := by
      rw [← at_moved]; cases ch <;> rfl
    refine ⟨fun shift => ?_, fun plain more => ?_, ?_⟩
    · rw [if_pos shift] at ran
      rw [ran, rests (t := s.puts y) rfl (List.Sublist.refl _), State.puts, caseAfter_shift shift, shift]
    · rw [if_neg (by rw [plain]; exact Bool.false_ne_true)] at ran
      have goes := proceedChan_keeps there found' (locate_block chain (off := off + 1) (by dsimp only; omega) more)
        (by simp [ChanWork.holds, copy])
      dsimp only at goes
      rw [if_neg shut, if_pos sends, known, again] at goes
      rw [ran, goes, told_silent, rests (by cases ch <;> rfl) (by cases ch <;> exact List.Sublist.refl _), State.puts, plain, ← running]
    · intro plain last port line gone
      rw [if_neg (by rw [plain]; exact Bool.false_ne_true)] at ran
      have at_next : w.position + 1 = (before.map (·.fill)).sum + b.fill := by omega
      refine ⟨fun k ks next some_next whole clean => ?_, fun k ks next some_next bad => ?_, fun empties opened => ?_, fun empties closed => ?_⟩
      · have split : r.chain = before ++ b :: k :: ks := next ▸ chain
        have goes := proceedChan_reads there found' (locate_next split at_next some_next) (by simp [ChanWork.holds, copy])
          (getElem?_next split) (fun _ => store ▸ clean) (fun bad => absurd (whole.symm.trans bad) Bool.false_ne_true)
        dsimp only at goes
        rw [if_neg shut, if_pos sends, known, again, Store.readsAs_sound whole, store] at goes
        rw [ran, goes, told_silent, rests (by cases ch <;> rfl) (by cases ch <;> exact List.Sublist.refl _), State.puts, plain, ← running]
      · have split : r.chain = before ++ b :: k :: ks := next ▸ chain
        have goes := proceedChan_aborts there found' (locate_next split at_next some_next) (by simp [ChanWork.holds, copy])
          (getElem?_next split) bad sends
        rw [reportOf_port (by exact port), ← at_moved, chanToIdle_setChan ch (w := w) (v := { w with position := w.position + 1 }) rfl,
          updateMsg_chanToIdle ch w, at_moved] at goes
        rw [ran, goes, told_silent, rests (by cases ch <;> rfl) (by cases ch <;> exact LineUnit.leave_sublist _ _), State.puts, plain]
        rfl
      · have goes := proceedChan_waits there found' (locate_past chain (n := w.position + 1) (by omega) empties) opened
        rw [ChanWork.waits, chain, noBlockAtEnd_last empties] at goes
        have at_end : moved.setLine (moved.line.withdraw (.chan ch)) = ((s.puts y).setLine ((s.puts y).line.withdraw (.chan ch))).setChan ch
            (some { w with position := w.position + 1 }) := by rw [← at_moved]; cases ch <;> rfl
        rw [at_end, setChan_setChan] at goes
        rw [ran, goes, told_silent, rests (by cases ch <;> rfl) (by cases ch <;> exact List.filter_sublist), State.puts, plain]
        rfl
      · have goes := proceedChan_ends there found' (locate_past chain (n := w.position + 1) (by omega) empties) closed
        rw [reportOf_port (by exact port), ← at_moved, chanToIdle_setChan ch (w := w) (v := { w with position := w.position + 1 }) rfl,
          chanToIdle_eq, at_moved] at goes
        rw [ran, goes, told_silent, rests (by cases ch <;> rfl) (by cases ch <;> exact LineUnit.leave_sublist _ _), State.puts, plain]
        rfl

end Sys2Proof.Machine
end

section
-- One proof is elaborated at a time: the threads of many at once do not fit the memory a check allows.
set_option Elab.async false

/-! SUPPORT. The Page Printer (R126 to R138): a format formed and loaded, an operation completed and the next one begun, jams and paper. -/

namespace Sys2Proof.Machine

/-! ## SET FORMAT (R128, R129) -/

theorem onOff_isNone : ∀ b : Byte, (onOff b).isNone = true ↔ 1 < b.toNat := by decide

theorem formatRefused_iff (presence mode cr : Byte) : formatRefused presence mode cr = true ↔
    (presence.getLsbD 3 = true ∧ 1 < mode.toNat) ∨ (presence.getLsbD 4 = true ∧ 1 < cr.toNat) := by
  simp only [formatRefused, present, Bool.or_eq_true, Bool.and_eq_true, onOff_isNone]

theorem anyField_iff : ∀ presence : Byte, anyField presence = true ↔ presence.getLsbD 0 = true ∨ presence.getLsbD 1 = true
    ∨ presence.getLsbD 2 = true ∨ presence.getLsbD 3 = true ∨ presence.getLsbD 4 = true := by decide

theorem eolModeOf_eq : ∀ b : Byte, b.toNat ≤ 1 → eolModeOf b = some (if b = 0 then .hold else .wrap) := by decide

/-- The record that SET FORMAT forms, written out (R128). -/
theorem Printer.formed_eq (r : Printer) {presence mode cr : Byte} (len margin spacing : Byte)
    (fine : ¬ ((presence.getLsbD 3 = true ∧ 1 < mode.toNat) ∨ (presence.getLsbD 4 = true ∧ 1 < cr.toNat))) :
    r.formed presence len margin spacing mode cr =
      let base := if r.waiting then r.pending else r.active
      let length := if presence.getLsbD 0 then max 20 (min 132 len.toNat) else base.lineLength
      { lineLength := length
        margin := min (if presence.getLsbD 1 then min 30 margin.toNat else base.margin) (length - 20)
        spacing := if presence.getLsbD 2 then max 1 (min 2 spacing.toNat) else base.spacing
        mode := if presence.getLsbD 3 then (if mode = 0 then .hold else .wrap) else base.mode
        crAddsLf := if presence.getLsbD 4 then cr == 1 else base.crAddsLf } := by
  obtain ⟨mode_fine, cr_fine⟩ := not_or.mp fine
  have mode_of (old : EolMode) : (if presence.getLsbD 3 then eolModeOf mode else none).getD old
      = if presence.getLsbD 3 then (if mode = 0 then .hold else .wrap) else old := by
    split_ifs with given zero
    · rw [eolModeOf_eq mode (Nat.not_lt.mp fun h => mode_fine ⟨given, h⟩), if_pos zero]; rfl
    · rw [eolModeOf_eq mode (Nat.not_lt.mp fun h => mode_fine ⟨given, h⟩), if_neg zero]; rfl
    · rfl
  have cr_of (old : Bool) : (if presence.getLsbD 4 then onOff cr else none).getD old = if presence.getLsbD 4 then cr == 1 else old := by
    split_ifs with given
    · rw [onOff_getD cr (Nat.not_lt.mp fun h => cr_fine ⟨given, h⟩)]; rfl
    · rfl
  unfold Printer.formed formFormat presentNat present clamp
  dsimp only
  rw [mode_of, cr_of]
  cases presence.getLsbD 0 <;> cases presence.getLsbD 1 <;> cases presence.getLsbD 2 <;> simp

theorem Printer.loadsAtOnce_iff (r : Printer) :
    r.loadsAtOnce = true ↔ r.engine = .idle ∧ r.queue = [] ∧ r.followOn = .none ∧ r.column = r.active.margin := by
  simp [Printer.loadsAtOnce]

theorem Printer.storePending_unfixed {r : Printer} (unfixed : ∀ cause start t, r.op ≠ some (.carriageReturn cause start (some t)))
    (f : Format) : r.storePending f = { r with pending := f, waiting := true } := by
  unfold Printer.storePending
  split
  · next cause start t at_op => exact absurd at_op (unfixed cause start t)
  · rfl

/-- Settles O47. -/
theorem formatsAreLoaded : Obligations.FormatsAreLoaded := by
  refine ⟨fun r => ?_, ?_, fun s cause start op => ?_⟩
  · have mode (m : EolMode) : byteOf m.index = match m with | .hold => 0 | .wrap => 1 := by cases m <;> rfl
    have engine : byteOf r.engine.index = match r.engine with | .idle => 0 | .busy => 1 | .stopped => 2 | .fault => 3 := by
      cases r.engine <;> rfl
    have follows : byteOf r.followOn.index = match r.followOn with | .none => 0 | .lf => 1 | .crLf => 2 := by cases r.followOn <;> rfl
    rw [Printer.formatBytes, Format.bytes, Format.bytes, mode, mode, engine, follows]
    rfl
  · intro p presence len margin spacing mode cr s c r bad any base length f atOnce
    have ran : exec c s = execSetFormat p presence len margin spacing mode cr s := rfl
    have formed (fine : ¬ bad) : s.printer.formed presence len margin spacing mode cr = f := Printer.formed_eq s.printer len margin spacing fine
    refine ⟨fun refused => ?_, fun fine none => ?_, fun fine some at_once => ⟨_, rfl, ?_⟩, fun fine some waits unfixed => ⟨_, rfl, ?_⟩⟩
    · rw [ran, execSetFormat, if_pos ((formatRefused_iff ..).mpr refused)]
      rfl
    · rw [ran, execSetFormat, if_neg (mt (formatRefused_iff ..).mp fine), if_pos (Bool.eq_false_iff.mpr (mt (anyField_iff presence).mp none))]
      rfl
    · have moves : max f.margin s.printer.active.margin - min f.margin s.printer.active.margin
          = (f.margin - s.printer.active.margin) + (s.printer.active.margin - f.margin) := by omega
      rw [ran, execSetFormat, if_neg (mt (formatRefused_iff ..).mp fine),
        if_neg (by rw [(anyField_iff presence).mpr some]; exact fun h => Bool.noConfusion h), formed fine]
      dsimp only
      rw [if_pos ((Printer.loadsAtOnce_iff _).mpr at_once), Printer.loadNow]
      dsimp only
      rw [moves]
      by_cases same : f.margin = s.printer.active.margin
      · rw [if_pos same, if_pos same, if_pos same, ← at_once.1]
        rfl
      · rw [if_neg same, if_neg same, if_neg same]
        rfl
    · rw [ran, execSetFormat, if_neg (mt (formatRefused_iff ..).mp fine),
        if_neg (by rw [(anyField_iff presence).mpr some]; exact fun h => Bool.noConfusion h), formed fine]
      dsimp only
      rw [if_neg (mt (Printer.loadsAtOnce_iff _).mp waits), Printer.storePending_unfixed unfixed]
      rfl
  · change Host.Outcome.next (s.setPrinter s.printer.fixTarget) = _
    rw [Printer.fixTarget, op]
    dsimp only
    cases s.printer.waiting <;> rfl

end Sys2Proof.Machine
end

section
-- One proof is elaborated at a time: the threads of many at once do not fit the memory a check allows.
set_option Elab.async false

/-! SUPPORT. The print engine (R126, R127, R130 to R138): what it takes from its queue, what completes, what stops it. -/

namespace Sys2Proof.Machine

/-! ## The head of the queue (R127, R134) -/

/-- The symbols at the head of the queue that begin no operation pass, a BELL driving the pin. -/
theorem Printer.takeFrom_silent (p : Printer) {run : List Symbol}
    (silent : ∀ z ∈ run, z.kind = .bell ∨ z.kind = .blank ∨ z.kind = .explicitShift ∨ z.kind = .wru) (rest : List Symbol) :
    p.takeFrom (run ++ rest) = ({ p with bell := p.bell || run.any (fun z => z.kind == .bell) } : Printer).takeFrom rest := by
  induction run generalizing p with
  | nil => simp
  | cons y ys ih =>
    have tail := fun z inside => silent z (List.mem_cons_of_mem y inside)
    rw [List.cons_append, Printer.takeFrom, List.any_cons]
    rcases silent y List.mem_cons_self with kind | kind | kind | kind <;>
      simp [kind, ih _ tail, show (Kind.blank == Kind.bell) = false from rfl, show (Kind.explicitShift == Kind.bell) = false from rfl,
        show (Kind.wru == Kind.bell) = false from rfl]

/-- The operation that a symbol of the queue begins (R127). -/
def Begins (y : Symbol) (column spacing : Nat) (op : PrintOp) : Prop :=
  (y.kind = .printable ∨ y.kind = .mutilated ∨ y.kind = .space) ∧ op = .advance y
    ∨ y.kind = .cr ∧ op = .carriageReturn .queue (some column) none ∨ y.kind = .lf ∧ op = .lineFeed spacing

theorem Printer.takeFrom_begins {p : Printer} {y : Symbol} {op : PrintOp} (begins : Begins y p.column p.active.spacing op)
    (ys : List Symbol) : p.takeFrom (y :: ys) = { p with queue := ys, engine := .busy, op := some op } := by
  rw [Printer.takeFrom]
  rcases begins with ⟨kind | kind | kind, rfl⟩ | ⟨kind, rfl⟩ | ⟨kind, rfl⟩ <;> rw [kind]

/-! ## An operation completes (R127, R130) -/

/-- A glyph that does not bring on a CR-LF. -/
theorem Printer.stepColumn_holds {p : Printer} (hold : p.active.lineLength - 1 ≤ p.column → p.active.mode = .hold) :
    p.stepColumn = { p with column := if p.active.lineLength - 1 ≤ p.column then p.column else p.column + 1 } := by
  unfold Printer.stepColumn
  by_cases last : p.active.lineLength - 1 ≤ p.column
  · rw [if_neg (by omega), hold last, if_pos last]
  · rw [if_pos (by omega), if_neg last]

theorem Printer.stepColumn_wraps {p : Printer} (last : p.active.lineLength - 1 ≤ p.column) (wrap : p.active.mode = .wrap) :
    p.stepColumn = { p with followOn := .crLf } := by
  rw [Printer.stepColumn, if_neg (by omega), wrap]

theorem printerProceed_eq {p q : Printer} {stops : Bool} (s : State) (goes : p.proceed = (q, stops)) :
    printerProceed (s.setPrinter p) = if stops then post .printerStopped (s.setPrinter q) else s.setPrinter q := by
  simp only [printerProceed, show (s.setPrinter p).printer = p from rfl, goes]
  rfl

theorem printerProceed_takes {s : State} {p q : Printer} (owes : p.followOn = .none) (paper : p.paperOut = false)
    (takes : p.takeFrom p.queue = q) : printerProceed (s.setPrinter p) = s.setPrinter q := by
  have goes : p.proceed = (q, false) := by
    rw [Printer.proceed, if_neg (fun h => h.1 owes), if_neg (by rw [paper]; exact Bool.false_ne_true), takes]
  exact printerProceed_eq s goes

theorem printerProceed_owes {s : State} {p : Printer} (owes : p.followOn ≠ .none) (paper : p.paperOut = false) :
    printerProceed (s.setPrinter p) = s.setPrinter p.beginFollowOn := by
  have goes : p.proceed = (p.beginFollowOn, false) := by rw [Printer.proceed, if_pos ⟨owes, paper⟩]
  exact printerProceed_eq s goes

theorem printerProceed_stops {s : State} {p : Printer} (out : p.paperOut = true) :
    printerProceed (s.setPrinter p) = post .printerStopped (s.setPrinter { p with engine := .stopped, op := none }) := by
  have goes : p.proceed = ({ p with engine := .stopped, op := none }, true) := by
    rw [Printer.proceed, if_neg (fun h => by rw [out] at h; exact Bool.noConfusion h.2), if_pos out]
  exact printerProceed_eq s goes

theorem exec_printCompletion_advance {s : State} {y : Symbol} (op : s.printer.op = some (.advance y)) :
    exec .printCompletion s = .next (kick (printerProceed (s.setPrinter s.printer.stepColumn))) := by
  change execPrintCompletion s = _
  rw [execPrintCompletion, op]

theorem exec_printCompletion_return {s : State} {cause : CrCause} {start : Option Nat} {t : CrTarget}
    (op : s.printer.op = some (.carriageReturn cause start (some t))) :
    exec .printCompletion s = .next (kick (returnComplete cause t s)) := by
  change execPrintCompletion s = _
  rw [execPrintCompletion, op]

theorem Printer.takeFrom_nothing {p : Printer} (queue : p.queue = []) : p.takeFrom p.queue = { p with engine := .idle, op := none } := by
  rw [queue, Printer.takeFrom, ← queue]

theorem leaves_of_kicked {c : Instr} {s u v : State} (h : exec c s = .next (kick v)) (same : v = u) : Leaves c s u :=
  leaves_of_kick (same ▸ h)

theorem leaves_of_advance {s t : State} {y : Symbol} (op : s.printer.op = some (.advance y))
    (hold : s.printer.active.lineLength - 1 ≤ s.printer.column → s.printer.active.mode = .hold)
    (goes : printerProceed (s.setPrinter { s.printer with
      column := if s.printer.active.lineLength - 1 ≤ s.printer.column then s.printer.column else s.printer.column + 1 }) = t) :
    Leaves .printCompletion s t := by
  have ran := exec_printCompletion_advance op
  rw [Printer.stepColumn_holds hold, goes] at ran
  exact leaves_of_kick ran

theorem leaves_of_wrap {s t : State} {y : Symbol} (op : s.printer.op = some (.advance y))
    (last : s.printer.active.lineLength - 1 ≤ s.printer.column) (wrap : s.printer.active.mode = .wrap)
    (goes : printerProceed (s.setPrinter { s.printer with followOn := .crLf }) = t) : Leaves .printCompletion s t := by
  have ran := exec_printCompletion_advance op
  rw [Printer.stepColumn_wraps last wrap, goes] at ran
  exact leaves_of_kick ran

/-! ## A carriage return completes (R129, R131, R132) -/

theorem returnComplete_eq {cause : CrCause} (running : cause ≠ .restart) (t : CrTarget) (s : State) : returnComplete cause t s =
    printerProceed ((if t.fromPending then post .formatLoaded s else s).setPrinter (s.printer.finishReturn cause t)) := by
  rw [returnComplete]
  dsimp only
  rw [if_neg running]
  cases t.fromPending <;> rfl

/-- What a return leaves, and the line feed it owes. -/
theorem Printer.finishReturn_eq {p : Printer} {cause : CrCause} {t : CrTarget} (owed : p.followOn = if cause = .wrap then .crLf else .none) :
    p.finishReturn cause t = { p with
      column := t.format.margin, active := if t.fromPending then t.format else p.active
      waiting := if t.fromPending then t.superseded && p.waiting else p.waiting
      op := none
      followOn := if cause = .wrap ∨ (cause = .queue ∧ (if t.fromPending then t.format else p.active).crAddsLf = true) then .lf
        else .none } := by
  unfold Printer.finishReturn
  cases cause with
  | queue =>
    have none : p.followOn = .none := owed
    by_cases adds : (if t.fromPending then t.format else p.active).crAddsLf = true <;> simp [adds, none]
  | wrap => rfl
  | restart =>
    have none : p.followOn = .none := owed
    simp [none]
  | homing =>
    have none : p.followOn = .none := owed
    simp [none]

/-- Settles O48. -/
theorem printerCompletes : Obligations.PrinterCompletes := by
  unfold Obligations.PrinterCompletes
  intro silent begins
  refine ⟨fun r y => ⟨rfl, fun busy => ?_, fun idle owes queue => ⟨fun op begun => ?_, fun none => ?_⟩⟩, ?_, ?_, ?_, ?_, fun s => rfl⟩
  · exact if_neg fun h => busy.elim (fun b => b h.1) fun b => b h.2
  · have acts : r.accept y = ({ r with queue := r.queue ++ [y] } : Printer).takeFrom (r.queue ++ [y]) := if_pos ⟨idle, owes⟩
    rw [acts, queue, List.nil_append, Printer.takeFrom_begins (by exact begun)]
  · have acts : r.accept y = ({ r with queue := r.queue ++ [y] } : Printer).takeFrom (r.queue ++ [y]) := if_pos ⟨idle, owes⟩
    rw [acts, queue, List.nil_append, ← List.append_nil [y], Printer.takeFrom_silent (run := [y]) _ (by simpa using none), Printer.takeFrom]
    simp [idle]
  · intro s y op owes paper r last col hold run rest split quiet rung
    have takes := Printer.takeFrom_silent { r with column := col } quiet rest
    refine ⟨fun none => ?_, fun z zs op' next begun => ?_⟩
    · rw [none, Printer.takeFrom] at takes
      exact leaves_of_advance op hold (printerProceed_takes owes paper ((congrArg _ (split.trans (by rw [none]))).trans takes))
    · rw [next, Printer.takeFrom_begins (by exact begun)] at takes
      exact leaves_of_advance op hold (printerProceed_takes owes paper ((congrArg _ (split.trans (by rw [next]))).trans takes))
  · intro s y op owes r last col
    refine ⟨fun paper queue hold => ?_, fun z zs paper queue hold kind => ?_, fun paper at_last wrap => ?_, fun out hold => ?_,
      fun out at_last wrap => ?_⟩
    · exact leaves_of_advance op hold (printerProceed_takes owes paper (Printer.takeFrom_nothing queue))
    · exact leaves_of_advance op hold (printerProceed_takes owes paper ((congrArg _ queue).trans (Printer.takeFrom_begins (.inl ⟨kind, rfl⟩) zs)))
    · exact leaves_of_wrap op at_last wrap (printerProceed_owes (fun h => FollowOn.noConfusion h) paper)
    · exact leaves_of_advance op hold (printerProceed_stops out)
    · exact leaves_of_wrap op at_last wrap (printerProceed_stops out)
  · intro s cause start t op paper not_restart owed r active r1 owes s1
    have ran := exec_printCompletion_return op
    rw [returnComplete_eq not_restart] at ran
    refine ⟨fun lf => ?_, fun clear queue => ?_⟩
    · have finished : s.printer.finishReturn cause t = { r1 with op := none, followOn := .lf } :=
        (Printer.finishReturn_eq owed).trans (by rw [if_pos lf])
      rw [finished] at ran
      exact leaves_of_kicked ran (printerProceed_owes (fun h => FollowOn.noConfusion h) paper)
    · have finished : s.printer.finishReturn cause t = { r1 with op := none, followOn := .none } :=
        (Printer.finishReturn_eq owed).trans (by rw [if_neg clear])
      rw [finished] at ran
      exact leaves_of_kicked ran (printerProceed_takes rfl paper (Printer.takeFrom_nothing queue))
  · intro s n op owes paper queue
    have ran : exec .printCompletion s = .next (kick (printerProceed s)) := by
      change execPrintCompletion s = _
      rcases op with op | op <;> rw [execPrintCompletion, op]
    exact leaves_of_kicked ran (printerProceed_takes (s := s) owes paper (Printer.takeFrom_nothing queue))

/-! ## Jams, paper and PRINTER RESTART (R135 to R138) -/

theorem headMeets_empty {s : State} (empty : s.kb.typeahead = []) : headMeets s = s := if_neg fun h => h.1 empty

theorem holdForSink_idle {c : Chan} {s : State} (idle : s.chan c = none) : holdForSink c s = s := by rw [holdForSink, idle]

theorem discardHeads_channels (s : State) : (discardHeads s).ch0 = s.ch0 ∧ (discardHeads s).ch1 = s.ch1 := by
  unfold discardHeads startRelease
  split_ifs <;> exact ⟨rfl, rfl⟩

/-- With no channel at work, a sink that refuses permanently meets the keyboard's head alone (R69). -/
theorem sinkEntered_idle {s : State} (ch0 : s.ch0 = none) (ch1 : s.ch1 = none) : sinkEntered s = headMeets s := by
  have same : (headMeets s).ch0 = s.ch0 ∧ (headMeets s).ch1 = s.ch1 := by
    unfold headMeets
    split_ifs
    · exact discardHeads_channels s
    · exact ⟨rfl, rfl⟩
  rw [sinkEntered, holdForSink_idle (c := .ch0) (same.1.trans ch0), holdForSink_idle (c := .ch1) (same.2.trans ch1)]

theorem headMeets_still (s : State) : (headMeets s).still = s.still := by
  unfold headMeets discardHeads startRelease
  split_ifs <;> rfl

theorem exec_carriageJam {s : State} (before : ∃ cause start, s.printer.op = some (.carriageReturn cause start none)) (ch0 : s.ch0 = none)
    (ch1 : s.ch1 = none) : exec .carriageJam s = .next (kick (headMeets (post .printerFault (s.setPrinter { s.printer with
      engine := .fault, op := none, followOn := .none, restart := false })))) := by
  obtain ⟨cause, start, op⟩ := before
  change execCarriageJam s = _
  rw [execCarriageJam, op]
  dsimp only
  rw [sinkEntered_idle]
  · exact ch0
  · exact ch1

/-- The engine ready with nothing to go on with (R136, R138). -/
theorem printerReady_rests {s : State} {p : Printer} (owes : p.followOn = .none) (queue : p.queue = []) :
    printerReady (s.setPrinter p) = post .printerReady (s.setPrinter { p with engine := .idle, op := none }) := by
  rw [printerReady]
  dsimp only
  rw [if_pos (by exact owes), Printer.takeFrom_nothing (by exact queue)]
  rfl

/-- The homing return of PRINTER RESTART is complete (R138). -/
theorem returnComplete_restart {t : CrTarget} {s : State} {p : Printer} (active : t.fromPending = false)
    (finished : s.printer.finishReturn .restart t = p) : returnComplete .restart t s =
      if p.paperOut then post .printerStopped (s.setPrinter { p with restart := false, engine := .stopped })
      else printerReady (s.setPrinter { p with restart := false }) := by
  rw [returnComplete, finished, active]
  rfl

/-- Settles O49. -/
theorem printerStopsAndRestarts : Obligations.PrinterStopsAndRestarts := by
  refine ⟨fun s before ch0 ch1 => ?_, fun s before ch0 ch1 typed prints busy other absent => ?_, fun p s => ⟨fun fault idle => ?_,
    fun fault runs => ?_, fun works => ?_⟩, fun s => ⟨fun idle => ?_, fun busy => ?_, fun runs => ?_, fun stopped owes queue => ?_⟩,
    fun s start t op owes queue active => ?_⟩
  · exact leaves_of_kick_still (exec_carriageJam before ch0 ch1) (headMeets_still _) headMeets_empty
  · rw [exec_carriageJam before ch0 ch1]
    have refused : sinksPermanent (keyboardRow s) (post .printerFault (s.setPrinter { s.printer with
        engine := .fault, op := none, followOn := .none, restart := false })) = true :=
      (sinksPermanent_iff ..).mpr (.inl ⟨by cases mode : s.kb.mode <;> simpa [keyboardRow, mode] using prints, rfl⟩)
    rw [headMeets, if_pos ⟨by exact typed, by exact refused⟩, discardHeads, startRelease, if_neg (by exact fun h => other h.2),
      kick_inFlight (by exact busy), settleKeyboard_absent rfl (fun h => absent (List.filter_sublist.subset h))]
    exact congrArg _ (by rw [show (post .printerFault (s.setPrinter { s.printer with
      engine := .fault, op := none, followOn := .none, restart := false })).line.withdraw .keyboard = s.line from
        LineUnit.withdraw_absent absent]; rfl)
  · exact (if_pos fault).trans (if_neg (by rw [idle]; exact Bool.false_ne_true))
  · exact (if_pos fault).trans (if_pos runs)
  · exact if_neg works
  · exact if_pos idle
  · exact if_neg busy
  · exact if_neg runs
  · have ran : exec .paperPresent s = .next (kick (printerReady (s.setPrinter { s.printer with paperOut := false }))) := if_pos stopped
    exact leaves_of_kicked ran (printerReady_rests (by exact owes) (by exact queue))
  · have ran := exec_printCompletion_return op
    have finished : s.printer.finishReturn .restart t = { s.printer with column := t.format.margin, op := none } := by
      rw [Printer.finishReturn_eq (cause := .restart) owes, active, if_neg (by rintro (h | ⟨h, _⟩) <;> cases h), ← owes]
      rfl
    refine ⟨fun paper => leaves_of_kicked ran ?_, fun out => leaves_of_kicked ran ?_⟩
    · rw [returnComplete_restart active finished, if_neg (by rw [paper]; exact Bool.false_ne_true)]
      exact printerReady_rests owes queue
    · rw [returnComplete_restart active finished, if_pos out]

end Sys2Proof.Machine
end

section
-- One proof is elaborated at a time: the threads of many at once do not fit the memory a check allows.
set_option Elab.async false

/-! SUPPORT. The Tape Punch (R142 to R150): rows formed and counted, the off marks, the tape supply. -/

namespace Sys2Proof.Machine

/-! ## The rows of a symbol (R9, R12, R143) -/

/-- The rows of a symbol, written out. -/
theorem rowsOf_eq (c : Case3) (y : Symbol) : rowsOf c y = if y.mutilated then [31] else
    if y.cls = .letters ∧ c ≠ .letters then [31, y.code]
    else if y.cls = .figures ∧ c ≠ .figures then [30, y.code] else [y.code] := by
  obtain ⟨code, cls, mutilated⟩ := y
  cases mutilated <;> cases cls <;> cases c <;> rfl

/-- Punch case follows the code of the row that begins. -/
theorem Punch.beginRow_eq {u : Punch} {row : BitVec 5} {rest : List (BitVec 5)} (rows : u.rows = row :: rest) :
    u.beginRow = { u with caseNow := if row = 31 then .letters else if row = 30 then .figures else u.caseNow } := by
  have follows : caseAfter false u.caseNow row = if row = 31 then .letters else if row = 30 then .figures else u.caseNow := by
    unfold caseAfter
    simp
  rw [Punch.beginRow, rows]
  dsimp only
  rw [follows]

theorem Punch.take_cons {u : Punch} {y : Symbol} {ys : List Symbol} (queue : u.queue = y :: ys) : u.take = u.feeds y ys := by
  rw [Punch.take, queue]
  dsimp only
  obtain ⟨row, rest, rows⟩ : ∃ row rest, rowsOf u.caseNow y = row :: rest := by
    rw [rowsOf]
    split_ifs <;> exact ⟨_, _, rfl⟩
  rw [Punch.beginRow_eq (by exact rows), Punch.feeds, ← rowsOf_eq, rows]
  simp

theorem Punch.take_nil {u : Punch} (queue : u.queue = []) : u.take = { u with engine := .idle, rows := [] } := by
  rw [Punch.take, queue]

/-- A BLANK's row leaves punch case as it is. -/
theorem Punch.feeds_blank (u : Punch) (rest : List Symbol) :
    u.feeds ⟨0, .neutral, false⟩ rest = { u with engine := .busy, queue := rest, rows := [0] } := rfl

/-- Settles O50. -/
theorem punchFeedJoinsBlanks : Obligations.PunchFeedJoinsBlanks := by
  intro p count s n
  have ran : exec (.punchFeed p count) s = execPunchFeed p count s := rfl
  have most : n ≤ 255 := Nat.min_le_left ..
  have two : halfOf n = [0, byteOf n] := by
    have top : n / 256 = 0 := by omega
    rw [halfOf, top]
    rfl
  have fed (some : n ≠ 0) (works : s.punch.engine ≠ .off) (room : s.punch.queue.length + n ≤ 64) : exec (.punchFeed p count) s =
      .next ((s.setPunch (s.punch.feed n)).answer p ⟨0x58, .done, none, [0, byteOf n, byteOf (s.punch.feed n).queue.length]⟩) := by
    rw [ran, execPunchFeed, if_neg some, if_neg works, if_neg (by show ¬ 64 < _; omega)]
    dsimp only
    rw [two]
    rfl
  refine ⟨fun zero => ?_, fun some off => ?_, fun some works full => ?_, fun some works room => ⟨fun busy => ?_, fun idle queue => ?_,
    fun y ys idle queue => ?_⟩⟩
  · rw [ran, execPunchFeed, if_pos zero]
    rfl
  · rw [ran, execPunchFeed, if_neg some, if_pos off]
    rfl
  · rw [ran, execPunchFeed, if_neg some, if_neg works, if_pos full]
    rfl
  · have joins : s.punch.feed n = { s.punch with queue := s.punch.queue ++ List.replicate n ⟨0, .neutral, false⟩ } := if_neg busy
    rw [fed some works room, joins, List.length_append, List.length_replicate]
  · obtain ⟨m, at_n⟩ : ∃ m, n = m + 1 := Nat.exists_eq_succ_of_ne_zero some
    have joins : s.punch.feed n = { s.punch with queue := List.replicate (n - 1) ⟨0, .neutral, false⟩, engine := .busy, rows := [0] } := by
      rw [Punch.feed, queue, at_n]
      dsimp only
      rw [if_pos idle, Punch.take_cons (List.nil_append _), List.replicate_succ]
      rfl
    rw [fed some works room, joins, List.length_replicate]
  · have joins : s.punch.feed n = s.punch.feeds y (ys ++ List.replicate n ⟨0, .neutral, false⟩) := by
      rw [Punch.feed]
      dsimp only
      rw [if_pos idle, Punch.take_cons (by exact (congrArg (· ++ _) queue))]
      rfl
    rw [fed some works room, joins]
    simp [Punch.feeds]

/-! ## Rows complete (R143 to R146) -/

/-- A row counted, and the tape that runs out with it (R143, R145). -/
theorem countRow_eq {s : State} (busy : s.punch.engine = .busy) (rest : List (BitVec 5)) :
    (if s.punch.countRow.2 then tapeRunsOut (s.setPunch { s.punch.countRow.1 with rows := rest })
      else s.setPunch { s.punch.countRow.1 with rows := rest }) =
    (if s.punch.counter = some 1 then post .punchTapeOut s else s).setPunch { s.punch with
      rows := rest, rowsPunched := min 65535 (s.punch.rowsPunched + 1), counter := s.punch.counter.map (· - 1)
      tapeOut := s.punch.tapeOut || s.punch.counter == some 1 } := by
  by_cases out : s.punch.counter = some 1
  · rw [if_pos out, if_pos (by simp [Punch.countRow, out]), tapeRunsOut, Punch.setTapeOut]
    simp [Punch.countRow, out, busy, State.setPunch]
    rfl
  · rw [if_neg out, if_neg (by simp [Punch.countRow, out]), show (s.punch.counter == some 1) = false from beq_false_of_ne out, Bool.or_false]
    rfl

theorem exec_punchRowCompletion_next {s : State} {row next : BitVec 5} {more : List (BitVec 5)} (rows : s.punch.rows = row :: next :: more)
    {s1 : State} {v : Punch} (counted : (if s.punch.countRow.2 then tapeRunsOut (s.setPunch { s.punch.countRow.1 with rows := next :: more })
      else s.setPunch { s.punch.countRow.1 with rows := next :: more }) = s1.setPunch v) :
    exec .punchRowCompletion s = .next (s1.setPunch v.beginRow) := by
  change execPunchRowCompletion s = _
  rw [execPunchRowCompletion, rows]
  dsimp only
  rw [counted]
  rfl

theorem exec_punchRowCompletion_last {s : State} {row : BitVec 5} (rows : s.punch.rows = [row])
    {s1 : State} {v w : Punch} {off : Option OffCause}
    (counted : (if s.punch.countRow.2 then tapeRunsOut (s.setPunch { s.punch.countRow.1 with rows := [] })
      else s.setPunch { s.punch.countRow.1 with rows := [] }) = s1.setPunch v) (ends : v.endOperation = (w, off)) :
    exec .punchRowCompletion s = .next (kick (punchEntered off (s1.setPunch w))) := by
  change execPunchRowCompletion s = _
  rw [execPunchRowCompletion, rows]
  dsimp only
  rw [counted]
  simp only [show (s1.setPunch v).punch = v from rfl, ends]
  rfl

theorem Punch.endOperation_off {u : Punch} (off : u.switchOff = true ∨ u.portOff = true) :
    u.endOperation = ({ u with engine := .off, rows := [] }, some (u.firstOff.getD .switch)) := if_pos off

theorem Punch.endOperation_on {u : Punch} (switch : u.switchOff = false) (port : u.portOff = false) :
    u.endOperation = if u.tapeOut = true then ({ u with engine := .tapeOut, rows := [] }, none) else (u.take, none) :=
  if_neg (by simp [switch, port])

/-- The punch off, with no channel at work: the keyboard's head alone meets it (R69, R148). -/
theorem punchEntered_idle {s : State} (ch0 : s.ch0 = none) (ch1 : s.ch1 = none) (first : OffCause) :
    punchEntered (some first) s = headMeets (post (.punchOff first) s) := sinkEntered_idle ch0 ch1

/-- Settles O51. -/
theorem punchRowsComplete : Obligations.PunchRowsComplete := by
  refine ⟨fun r y => ⟨rfl, fun busy => if_neg busy, ?_⟩, ?_⟩
  · intro idle queue rows
    have joins : r.accept y = ({ r with queue := r.queue ++ [y] } : Punch).take := if_pos idle
    rw [joins, Punch.take_cons (y := y) (ys := []) (by rw [queue]; rfl), Punch.feeds, queue]
  intro s row rest rows busy u outNow marked v s1
  have on (switch : u.switchOff = false) (port : u.portOff = false) := Punch.endOperation_on (u := v) switch port
  have tape : v.tapeOut = true ↔ marked := by
    change (u.tapeOut || u.counter == some 1) = true ↔ _
    rw [Bool.or_eq_true, beq_iff_eq]
  have quiet : s1.ch0 = s.ch0 ∧ s1.ch1 = s.ch1 := by
    change (if outNow then post .punchTapeOut s else s).ch0 = _ ∧ (if outNow then post .punchTapeOut s else s).ch1 = _
    split_ifs <;> exact ⟨rfl, rfl⟩
  refine ⟨fun next more split => ?_, fun last off ch0 ch1 first at_first => ?_, fun last switch port out => ?_, fun last switch port plenty queue => ?_,
    ?_⟩
  · subst split
    rw [exec_punchRowCompletion_next rows (countRow_eq busy _), Punch.beginRow_eq (row := next) (rest := more) rfl]
  · subst last
    have ran := exec_punchRowCompletion_last rows (countRow_eq busy _) (Punch.endOperation_off (u := v) off)
    have meets := punchEntered_idle (s := s1.setPunch { v with engine := .off, rows := [] }) (quiet.1.trans ch0) (quiet.2.trans ch1) first
    rw [show v.firstOff.getD .switch = first by rw [show v.firstOff = some first from at_first]; rfl] at ran
    exact leaves_of_kick_still (ran.trans (congrArg (fun t => Host.Outcome.next (kick t)) meets)) (headMeets_still _) headMeets_empty
  · subst last
    exact leaves_of_kick (exec_punchRowCompletion_last rows (countRow_eq busy _) ((on switch port).trans (if_pos (tape.mpr out))))
  · subst last
    have ends := (on switch port).trans (if_neg (mt tape.mp plenty))
    rw [Punch.take_nil (by exact queue)] at ends
    exact leaves_of_kick (exec_punchRowCompletion_last rows (countRow_eq busy _) ends)
  · intro last switch port plenty y ys queue rows'
    subst last
    have ends := (on switch port).trans (if_neg (mt tape.mp plenty))
    rw [Punch.take_cons (by exact queue)] at ends
    have ran := exec_punchRowCompletion_last rows (countRow_eq busy _) ends
    rw [Punch.feeds] at ran
    refine leaves_of_kicked ran ?_
    rw [show (v.engine : PuEngine) = .busy from busy]
    rfl

/-! ## The off marks (R148) -/

/-- The marks after one of them is set or cleared. -/
def Punch.marked (u : Punch) (cause : OffCause) (v : Bool) (first : Option OffCause) : Punch := { u with
  switchOff := if cause = .switch then v else u.switchOff, portOff := if cause = .command then v else u.portOff
  firstOff := first }

/-- The other mark of the two. -/
def Punch.otherOff (u : Punch) (cause : OffCause) : Bool := if cause = .switch then u.portOff else u.switchOff

theorem Punch.setOff_free {u : Punch} (free : u.engine = .idle ∨ u.engine = .tapeOut) (cause : OffCause) : u.setOff cause =
    ({ u.marked cause true (some (u.firstOff.getD cause)) with engine := .off }, some (u.firstOff.getD cause)) := by
  cases cause <;> exact if_pos free

theorem Punch.setOff_busy {u : Punch} (busy : u.engine = .busy ∨ u.engine = .off) (cause : OffCause) : u.setOff cause =
    (u.marked cause true (some (u.firstOff.getD cause)), none) := by
  have not_free : ¬ (u.engine = .idle ∨ u.engine = .tapeOut) := by rcases busy with h | h <;> simp [h]
  cases cause <;> exact if_neg not_free

/-- The mark that remains counts as the one set first (log entry 53). -/
theorem Punch.clearOff_eq (u : Punch) (cause : OffCause) : u.clearOff cause =
    let v := u.marked cause false (if u.otherOff cause = false then none else if cause = .switch then some .command else some .switch)
    if u.otherOff cause = false ∧ u.engine = .off then
      if u.tapeOut then ({ v with engine := .tapeOut }, false) else (({ v with engine := .idle } : Punch).take, true)
    else (v, false) := by
  cases cause with
  | switch =>
    rw [Punch.clearOff]
    cases other : u.portOff <;> simp [Punch.marked, Punch.otherOff, other]
  | command =>
    rw [Punch.clearOff]
    cases other : u.switchOff <;> simp [Punch.marked, Punch.otherOff, other]

theorem headMeets_punch (s : State) : (headMeets s).punch = s.punch := by
  unfold headMeets discardHeads startRelease
  split_ifs <;> rfl

/-- Settles O52. -/
theorem punchOffMarksAct : Obligations.PunchOffMarksAct := by
  refine ⟨fun r => ?_, fun s c on cause replied ch0 ch1 which => ?_⟩
  · have engine : byteOf r.engine.index = match r.engine with | .idle => 0 | .busy => 1 | .tapeOut => 2 | .off => 3 := by
      cases r.engine <;> rfl
    rw [Punch.report, engine]
    rfl
  intro u other mark
  have ran : exec c s = .next (kick (replied (if on then punchClear cause s else punchSet cause s))) := by
    rcases which with ⟨rfl, rfl, rfl, plain⟩ | ⟨rfl, rfl, rfl, plain⟩ | ⟨p, rfl, rfl, rfl, answers⟩ | ⟨p, rfl, rfl, rfl, answers⟩
    · rw [plain]; rfl
    · rw [plain]; rfl
    · rw [answers]; rfl
    · rw [answers]; rfl
  have still {a b : State} (same : a.still = b.still) (punch : a.punch = b.punch) : (replied a).still = (replied b).still := by
    rcases which with ⟨_, _, _, plain⟩ | ⟨_, _, _, plain⟩ | ⟨p, _, _, _, answers⟩ | ⟨p, _, _, _, answers⟩
    · rw [plain, plain, same]
    · rw [plain, plain, same]
    · rw [answers, answers, State.answer_still, State.answer_still, same, punch]
    · rw [answers, answers, State.answer_still, State.answer_still, same, punch]
  have typed (a : State) : (replied a).kb = a.kb := by
    rcases which with ⟨_, _, _, plain⟩ | ⟨_, _, _, plain⟩ | ⟨p, _, _, _, answers⟩ | ⟨p, _, _, _, answers⟩
    · rw [plain]
    · rw [plain]
    · rw [answers]; cases p <;> rfl
    · rw [answers]; cases p <;> rfl
  have leaves {t : State} (turns : (if on then punchClear cause s else punchSet cause s) = t) : Leaves c s (replied t) :=
    leaves_of_kicked ran (congrArg replied turns)
  have clears (goes : on = true) {v : Punch} {ready : Bool} (turns : s.punch.clearOff cause = (v, ready)) :
      Leaves c s (replied (if ready then post .punchReady (s.setPunch v) else s.setPunch v)) := by
    refine leaves ?_
    rw [goes, if_pos rfl, punchClear, turns]
  refine ⟨fun off free => ?_, fun off busy => ?_, fun goes stays => ?_, fun goes clear was out => ?_, fun goes clear was tape queue => ?_,
    fun y ys goes clear was tape queue => ?_⟩
  · have turns : (if on then punchClear cause s else punchSet cause s) = headMeets (post (.punchOff (u.firstOff.getD cause))
        (s.setPunch { mark true (some (u.firstOff.getD cause)) with engine := .off })) := by
      rw [off, if_neg Bool.false_ne_true, punchSet, Punch.setOff_free free]
      exact punchEntered_idle (by exact ch0) (by exact ch1) _
    have ran' := ran.trans (congrArg (fun t => Host.Outcome.next (kick (replied t))) turns)
    exact leaves_of_kick_still ran' (still (headMeets_still _) (headMeets_punch _)) fun empty =>
      congrArg replied (headMeets_empty (typed _ ▸ empty))
  · refine leaves ?_
    rw [off, if_neg Bool.false_ne_true, punchSet, Punch.setOff_busy busy]
    rfl
  · refine clears goes (ready := false) ((Punch.clearOff_eq ..).trans (if_neg fun h => ?_))
    exact stays.elim (fun set => Bool.noConfusion (h.1.symm.trans set)) fun on => on h.2
  · refine clears goes (ready := false) ((Punch.clearOff_eq ..).trans ((if_pos ⟨clear, was⟩).trans ((if_pos out).trans ?_)))
    rw [if_pos (by exact clear)]
    rfl
  · refine clears goes (ready := true) ((Punch.clearOff_eq ..).trans ((if_pos ⟨clear, was⟩).trans ((if_neg ?_).trans ?_)))
    · rw [tape]; exact Bool.false_ne_true
    · rw [if_pos (by exact clear), Punch.take_nil (by exact queue)]
      rfl
  · refine clears goes (ready := true) ((Punch.clearOff_eq ..).trans ((if_pos ⟨clear, was⟩).trans ((if_neg ?_).trans ?_)))
    · rw [tape]; exact Bool.false_ne_true
    · rw [if_pos (by exact clear), Punch.take_cons (by exact queue)]
      rfl

/-! ## The tape supply (R145 to R147, R150) -/

theorem tapeRunsOut_eq (s : State) (u : Punch) : tapeRunsOut (s.setPunch u) = post .punchTapeOut (s.setPunch { u with
    tapeOut := true, engine := if u.engine = .idle then .tapeOut else u.engine }) := rfl

theorem exec_tapeLow {s : State} {n : Nat} (high : s.punch.tapeLow = false) (amount : s.punch.allowance = n) : exec .tapeLow s = .next
    (if n = 0 then tapeRunsOut (post (.punchTapeLow n) (s.setPunch { s.punch with tapeLow := true, counter := some n }))
    else post (.punchTapeLow n) (s.setPunch { s.punch with tapeLow := true, counter := some n })) := by
  subst amount
  exact if_neg (by rw [high]; exact Bool.false_ne_true)

/-- PUNCH RESUME with the tape present and the mark set (R147). -/
theorem exec_punchResume {p : Port} {s : State} (out : s.punch.tapeOut = true) (high : s.punch.tapeLow = false) {v : Punch} {ready : Bool}
    (resumes : s.punch.resumed = (v, ready)) : exec (.punchResume p) s = .next (kick
      ((if ready then post .punchReady (s.setPunch v) else s.setPunch v).answer p ⟨0x5B, .done, none, v.report⟩)) := by
  change execPunchResume p s = _
  rw [execPunchResume, if_pos out, if_neg (by rw [high]; exact Bool.false_ne_true), resumes]
  cases ready <;> rfl

/-- Settles O53. -/
theorem tapeSupplyIsWatched : Obligations.TapeSupplyIsWatched := by
  refine ⟨fun r => ?_, ?_, ?_, fun p presence allowance clear s => ⟨fun high => ?_, fun low => ⟨_, rfl, ?_⟩⟩⟩
  · have engine : byteOf r.engine.index = match r.engine with | .idle => 0 | .busy => 1 | .tapeOut => 2 | .off => 3 := by
      cases r.engine <;> rfl
    rw [Punch.configBytes, engine]
    cases r.counter <;> rfl
  · intro s u
    refine ⟨fun low => if_pos low, fun high some => ?_, fun high zero => ?_, rfl, fun counter mark => ?_, fun other => ?_⟩
    · rw [exec_tapeLow high rfl, if_neg some]
    · exact exec_tapeLow (n := 0) high zero
    · exact if_pos ⟨counter, mark⟩
    · exact if_neg fun h => other.elim (fun c => c h.1) fun mark => Bool.noConfusion (h.2.symm.trans mark)
  · intro p s u
    refine ⟨fun clear => if_neg (by rw [clear]; exact Bool.false_ne_true), fun out low => ?_, fun out high other => ⟨_, rfl, ?_⟩,
      fun out high was queue => ⟨_, rfl, ?_⟩, fun y ys out high was queue => ⟨_, rfl, ?_⟩⟩
    · exact (if_pos out).trans (if_pos low)
    · exact leaves_of_kick (exec_punchResume (ready := false) out high (if_neg other))
    · have resumes : s.punch.resumed = (({ u with tapeOut := false, caseNow := .unknown, engine := .idle } : Punch).take, true) := if_pos was
      rw [Punch.take_nil (by exact queue)] at resumes
      exact leaves_of_kick (exec_punchResume out high resumes)
    · have resumes : s.punch.resumed = (({ u with tapeOut := false, caseNow := .unknown, engine := .idle } : Punch).take, true) := if_pos was
      rw [Punch.take_cons (by exact queue)] at resumes
      exact leaves_of_kick (exec_punchResume out high resumes)
  · change execConfigurePunch p presence allowance clear s = _
    rw [execConfigurePunch, onOff_none clear high]
    rfl
  · change execConfigurePunch p presence allowance clear s = _
    have stored : clamp 0 4000 allowance.toNat = min 4000 allowance.toNat := Nat.max_eq_right (Nat.zero_le _)
    have option : (clear == 1) = decide (clear = 1) := rfl
    rw [execConfigurePunch, onOff_getD clear low]
    dsimp only
    rw [stored, option]
    by_cases one : clear = 1
    · rw [if_pos one, if_pos (decide_eq_true one)]; rfl
    · rw [if_neg one, if_neg (show ¬ decide (clear = 1) = true by simpa using one)]; rfl

end Sys2Proof.Machine
end

section
-- One proof is elaborated at a time: the threads of many at once do not fit the memory a check allows.
set_option Elab.async false

/-! SUPPORT. The Call Sequencer's configuration and its calls (R165 to R169, R171): the session record, the settings, the answer-back and
WRU asked for, and the start of a call. -/

namespace Sys2Proof.Machine

/-! ## The session record (R165) -/

theorem fourMarks_eq : ∀ a b c d : Bool, (boolOf a + 2 * boolOf b + 4 * boolOf c + 8 * boolOf d : Byte)
    = byteOf ((if a then 2 ^ 0 else 0) + (if b then 2 ^ 1 else 0) + (if c then 2 ^ 2 else 0) + if d then 2 ^ 3 else 0) := by decide

theorem byteOf_chanIndex (c : Chan) : byteOf (chanIndex c) = if c = .ch0 then 0 else 1 := by cases c <;> rfl

/-- The record of an automatic send. -/
theorem autoStep_eq (t : AutoStep) : byteOf t.index = match t with
    | .wru => 0 | .capture => 1 | .headerAnswer => 2 | .headerCr => 2 | .headerLf => 2 | .body => 3
    | .trailerCr => 4 | .trailerLf => 4 | .trailerAnswer => 4 := by cases t <;> rfl

/-- The answering mode and the call's state. -/
theorem callState_eq (t : CallState) : byteOf t.index = match t with
    | .idle => 0 | .incoming => 1 | .outgoing => 2 | .clearing => 3 := by cases t <;> rfl

theorem snapshot_eq (t : Option AnsMode) : optByte (t.map AnsMode.index) = match t with
    | some .attended => 0 | some .unattended => 1 | none => 0xFF := by
  cases t with
  | none => rfl
  | some m => cases m <;> rfl

theorem phase_eq (t : Option CallPhase) : optByte (t.map CallPhase.index) = match t with
    | some .settle => 0 | some .capture => 1 | some .traffic => 2 | some .autoSend => 3 | some .collection => 4 | none => 0xFF := by
  cases t with
  | none => rfl
  | some m => cases m <;> rfl

theorem status_eq (t : CapStatus) : byteOf t.index = match t with | .none => 0 | .captured => 1 | .timeout => 2 := by cases t <;> rfl

theorem optChan_eq (c : Option Chan) : optByte (c.map chanIndex) = match c with | some ch => if ch = .ch0 then 0 else 1 | none => 0xFF := by
  cases c with
  | none => rfl
  | some c => exact byteOf_chanIndex c

/-! ## CONFIGURE ANSWERING (R166) -/

theorem ansModeOf_isNone : ∀ b : Byte, (ansModeOf b).isNone = true ↔ 1 < b.toNat := by decide

theorem answeringRefused_iff (presence mode identify drain wru : Byte) : answeringRefused presence mode identify drain wru = true ↔
    (presence.getLsbD 0 = true ∧ 1 < mode.toNat) ∨ (presence.getLsbD 1 = true ∧ 1 < identify.toNat)
      ∨ (presence.getLsbD 6 = true ∧ 1 < drain.toNat) ∨ (presence.getLsbD 7 = true ∧ 1 < wru.toNat) := by
  simp only [answeringRefused, present, Bool.or_eq_true, Bool.and_eq_true, onOff_isNone, ansModeOf_isNone, or_assoc]

theorem ansModeOf_eq : ∀ b : Byte, b.toNat ≤ 1 → ansModeOf b = some (if b = 0 then .attended else .unattended) := by decide

/-- An on/off value stored where it is present (R192). -/
theorem onOff_stored {presence b : Byte} {n : Nat} (fine : ¬ (presence.getLsbD n = true ∧ 1 < b.toNat)) (old : Bool) :
    (if present presence n then (onOff b).getD old else old) = if presence.getLsbD n then b == 1 else old := by
  unfold present
  split_ifs with given
  · rw [onOff_getD b (Nat.not_lt.mp fun high => fine ⟨given, high⟩)]
    rfl
  · rfl

theorem ansMode_stored {presence b : Byte} {n : Nat} (fine : ¬ (presence.getLsbD n = true ∧ 1 < b.toNat)) (old : AnsMode) :
    (if present presence n then (ansModeOf b).getD old else old)
      = if presence.getLsbD n then (if b = 0 then .attended else .unattended) else old := by
  unfold present
  split_ifs with given zero
  · rw [ansModeOf_eq b (Nat.not_lt.mp fun high => fine ⟨given, high⟩), if_pos zero]
    rfl
  · rw [ansModeOf_eq b (Nat.not_lt.mp fun high => fine ⟨given, high⟩), if_neg zero]
    rfl
  · rfl

theorem exec_configureAnswering {p : Port} {presence mode identify settle : Byte} {idle mutilation : Half} {attempts drain wru : Byte}
    {s : State} (fine : answeringRefused presence mode identify drain wru = false) {v : Calls}
    (calls : s.calls.configure presence mode identify settle idle mutilation attempts drain = v) {w : Bool}
    (response : (if present presence 7 then (onOff wru).getD s.ident.wruResponse else s.ident.wruResponse) = w) :
    exec (.configureAnswering p presence mode identify settle idle mutilation attempts drain wru) s = .next
      (({ s with calls := v, ident := { s.ident with wruResponse := w } } : State).answer p ⟨0x76, .done, none,
        [byteOf v.mode.index, boolOf v.identify, byteOf v.settle] ++ halfOf v.idle ++ halfOf v.mutLimit
          ++ [byteOf v.attemptLimit, boolOf v.autoDrain, boolOf w] ++ sessionBytes v⟩) := by
  subst calls response
  change execConfigureAnswering p presence mode identify settle idle mutilation attempts drain wru s = _
  rw [execConfigureAnswering, if_neg (by rw [fine]; exact Bool.false_ne_true)]
  cases present presence 7 <;> rfl

/-- Settles O60. -/
theorem answeringIsConfigured : Obligations.AnsweringIsConfigured := by
  refine ⟨?_, ?_⟩
  · intro c two bit mark chan current
    dsimp only [two, bit, mark, chan, current]
    rw [sessionBytes, runOf, List.length_map]
    rw [fourMarks_eq, callState_eq, snapshot_eq, phase_eq, status_eq]
    rcases c.coll with _ | ⟨remaining, _ | ⟨n, ch⟩, collected, skipped⟩ <;> rcases c.auto with _ | ⟨message, step, channel⟩ <;>
      cases c.drain <;> 
      simp only [autoStep_eq, optChan_eq, byteOf_chanIndex, List.append_assoc] <;> rfl
  · intro p presence mode identify settle idle mutilation attempts drain wru s c bad
    refine ⟨fun refused => ?_, fun fine => ⟨_, rfl, _, rfl, ?_⟩⟩
    · exact if_pos ((answeringRefused_iff ..).mpr refused)
    · obtain ⟨mode_fine, identify_fine, drain_fine, wru_fine⟩ : ¬ _ ∧ ¬ _ ∧ ¬ _ ∧ ¬ _ := by simpa only [bad, not_or] using fine
      have byte (m : AnsMode) : byteOf m.index = if m = .attended then 0 else 1 := by cases m <;> rfl
      have stored : s.calls.configure presence mode identify settle idle mutilation attempts drain = { s.calls with
          mode := if presence.getLsbD 0 then (if mode = 0 then .attended else .unattended) else s.calls.mode
          identify := if presence.getLsbD 1 then identify == 1 else s.calls.identify
          settle := if presence.getLsbD 2 then min 5 settle.toNat else s.calls.settle
          idle := if presence.getLsbD 3 then max 10 (min 600 idle.toNat) else s.calls.idle
          mutLimit := if presence.getLsbD 4 then min 255 mutilation.toNat else s.calls.mutLimit
          attemptLimit := if presence.getLsbD 5 then max 1 (min 9 attempts.toNat) else s.calls.attemptLimit
          autoDrain := if presence.getLsbD 6 then drain == 1 else s.calls.autoDrain } := by
        rw [Calls.configure, ansMode_stored mode_fine, onOff_stored identify_fine, onOff_stored drain_fine]
        simp only [clamp, Nat.zero_max, present]
        rfl
      rw [exec_configureAnswering (Bool.eq_false_iff.mpr (mt (answeringRefused_iff ..).mp fine)) stored (onOff_stored wru_fine _), byte]
      rfl

/-! ## SEND ANSWER-BACK and SEND WRU (R171) -/

theorem answer_copied (s : State) (p : Port) (a : Answer) (y : Symbol) : (s.answer p a).copied y = (s.copied y).answer p a := by
  cases p <;> rfl

theorem answer_setLine (s : State) (p : Port) (a : Answer) (l : LineUnit) : (s.answer p a).setLine l = (s.setLine l).answer p a := by
  cases p <;> rfl

theorem exec_sendAnswerBack {p : Port} {s u : State} (asked : answerBack s = u) :
    exec (.sendAnswerBack p) s = .next (kick (u.answer p ⟨0x74, .done, none, []⟩)) := by
  subst asked
  rfl

/-- A free transmitter takes the text of the latch that an answer-back waits for (R42, R43). -/
theorem kick_pending {s : State} {l : Latch} {y : Symbol} {ys : List Symbol} (ab : s.line.abState = .pending) (latch : s.ident.latch = some l)
    (text : l.text = y :: ys) (free : s.line.txChar = none) (enabled : s.line.txEnable = true) (rate : s.line.pendingRate = none)
    (empty : s.kb.typeahead = []) (absent : .keyboard ∉ s.line.requests) :
    kick s = takeText (s.setLine { s.line with abState := .sending, abText := y :: ys, abSent := 0 }) := by
  have next : takeNext s = takeText (s.setLine { s.line with abState := .sending, abText := y :: ys, abSent := 0 }) := by
    rw [takeNext, ab]
    dsimp only
    rw [if_pos ⟨enabled, rate⟩, latch, Option.map_some, text]
  rw [kick_free free (settleKeyboard_absent empty absent), next, takeText_eq (by rfl)]
  exact settleKeyboard_absent (by exact empty) (by exact absent)

/-- A symbol handed to CONTROL keeps the transmitter from no character. -/
theorem engaged_wruAsk {s t : State} (h : s.Engaged) (kb : t.kb.typeahead = s.kb.typeahead) {y : Symbol}
    (line : t.line = { s.line with control := some y }.asked .control) : t.Engaged :=
  engaged_asked (r := .control) (l := { s.line with control := some y }) h (by decide) kb rfl ⟨rfl, rfl, rfl⟩ line

/-- Settles O58. -/
theorem answerBacksAreAsked : Obligations.AnswerBacksAreAsked := by
  refine ⟨fun p s => ⟨fun ab latch => ?_, ?_, fun ab latch auto => ?_, fun ab => ?_⟩, fun p s => ⟨fun none => ?_, fun in_call =>
    ⟨fun bars => ?_, fun phase pending capturing => ?_⟩⟩⟩
  · exact brings_of_kick (exec_sendAnswerBack (answerBack_pending ab latch)) fun e =>
      answer_engaged (by exact engaged_answerBack e rfl rfl rfl (.inl fun h => AbState.noConfusion h)) p _
  · intro l y ys ab latch text free enabled rate empty absent shift code
    have asked := answerBack_pending ab (by rw [latch]; exact Option.some_ne_none l)
    rw [exec_sendAnswerBack asked, kick_pending (l := l) (y := y) (ys := ys) (by cases p <;> rfl) (by cases p <;> exact latch) text
      (by cases p <;> exact free) (by cases p <;> exact enabled) (by cases p <;> exact rate) (by cases p <;> exact empty)
      (by cases p <;> exact absent), answer_setLine, takeText_eq (y := y) (ys := ys) (by cases p <;> rfl), answer_setLine, answer_copied]
    cases p <;> rfl
  · exact brings_of_kick (exec_sendAnswerBack (answerBack_empty ab latch auto)) fun e => answer_engaged (by exact e) p _
  · exact brings_of_kick (exec_sendAnswerBack (answerBack_absorbed ab)) fun e =>
      answer_engaged (by exact engaged_answerBack e rfl rfl rfl (.inr rfl)) p _
  · exact if_pos none
  · have ran : exec (.sendWru p) s = execSendWru p s := rfl
    rw [ran, execSendWru, if_neg (by rcases in_call with h | h <;> simp [h]), if_neg fun may => ?_]
    · rfl
    · obtain ⟨_, phase, pending, capturing⟩ := (captureMayStart_iff s).mp may
      rcases bars with h | h | h
      · exact h phase
      · exact Bool.noConfusion (pending.symm.trans h)
      · exact Bool.noConfusion (capturing.symm.trans h)
  · have ran : exec (.sendWru p) s = .next (kick ((wruAsk s).begun p 0x75 [])) := by
      refine (if_neg ?_).trans (if_pos ((captureMayStart_iff s).mpr ⟨in_call, phase, pending, capturing⟩))
      rcases in_call with h | h <;> simp [h]
    rw [wruAsk_eq] at ran
    exact brings_of_kick ran fun e => answer_engaged (by exact engaged_wruAsk e rfl rfl) p _

/-! ## The start of a call (R167, R169) -/

/-- A call that starts with no drain in progress. -/
theorem callStart_eq {s : State} (drain : s.calls.drain = none) : callStart s = { s with
    line := { s.line with
      rxCase := .letters, txCase := .unknown, peakP := 0, received := 0, overCount := 0, framingCount := 0, distReported := false }
    dist := { s.dist with history := [], gateOpen := false }
    store := { s.store with unstoredMark := false }
    calls := { s.calls with captured := [], status := .none, idleT := some s.calls.idle } } := by
  have none : endDrain s = s := by rw [endDrain, drain]
  rw [callStart, none]
  rfl

theorem exec_callIn {p : Port} {s u : State} (idle : s.calls.state = .idle) (starts : callInStart s = u) :
    exec (.callIn p) s = .next (kick (u.answer p ⟨0x70, .done, none, []⟩)) := by
  subst starts
  exact if_pos idle

theorem exec_callOut {p : Port} {s u : State} (idle : s.calls.state = .idle) (starts : callOutStart s = u) :
    exec (.callOut p) s = .next (kick (u.answer p ⟨0x71, .done, none, []⟩)) := by
  subst starts
  exact if_pos idle

/-- Settles O56. -/
theorem callsStart : Obligations.CallsStart := by
  refine ⟨fun p s busy => ⟨if_neg busy, if_neg busy⟩, ?_, fun s => ⟨fun n timer => ?_, fun none => ?_⟩⟩
  · intro p s idle drain l d c s1 locked
    refine ⟨fun mode => ?_, fun mode identify => ?_, fun mode identify settle => ?_, fun mode identify settle => ?_, fun nobody => ?_⟩
    · refine leaves_of_kick (exec_callIn idle ?_)
      rw [callInStart, callStart_eq drain]
      dsimp only
      rw [mode]
      rfl
    · refine leaves_of_kick (exec_callIn idle ?_)
      rw [callInStart, callStart_eq drain]
      dsimp only
      rw [mode]
      dsimp only
      rw [if_neg (by rw [identify]; exact Bool.false_ne_true)]
      rfl
    · refine leaves_of_kick (exec_callIn idle ?_)
      rw [callInStart, callStart_eq drain]
      dsimp only
      rw [mode]
      dsimp only
      rw [if_pos identify, if_neg settle]
      rfl
    · refine brings_of_kick (exec_callIn idle ?_) fun e => answer_engaged ?_ p _
      rotate_left
      · exact engaged_asked (r := .control) (l := { l with control := some ⟨6, .figures, false⟩ }) e (by decide) (by exact rfl) rfl
          ⟨rfl, rfl, rfl⟩ rfl
      rw [callInStart, callStart_eq drain]
      dsimp only
      rw [mode]
      dsimp only
      rw [if_pos identify, if_pos settle, settleDone, wruAsk_eq]
      rfl
    · refine leaves_of_kick (exec_callOut idle ?_)
      have still (ch : Chan) (t : State) (same : t.chan ch = s.chan ch) : triggerChan ch .callOut t = (t, none) :=
        triggerChan_other fun w at_ch => Classical.or_iff_not_imp_left.mpr fun pending =>
          nobody ch w (same.symm.trans at_ch) (Classical.not_not.mp pending)
      have both (t : State) (ch0 : t.ch0 = s.ch0) (ch1 : t.ch1 = s.ch1) :
          told .ch1 (triggerChan .ch1 .callOut (told .ch0 (triggerChan .ch0 .callOut t))) = t := by
        rw [still .ch0 t ch0, told_silent, still .ch1 t ch1, told_silent]
      rw [callOutStart, callStart_eq drain]
      exact congrArg (post _) (both _ rfl rfl)
  · have ran : exec .settleExpiry s = .next (kick (settleDone s)) := if_pos (by rw [timer]; rfl)
    rw [settleDone, wruAsk_eq] at ran
    exact brings_of_kick ran fun e => by exact engaged_wruAsk e rfl rfl
  · exact if_neg (by rw [none]; exact Bool.false_ne_true)

end Sys2Proof.Machine
end

section
-- One proof is elaborated at a time: the threads of many at once do not fit the memory a check allows.
set_option Elab.async false

/-! SUPPORT. The end of a call (R168, R172 to R174): its message closed, its timers stopped, and the requests to clear. -/

namespace Sys2Proof.Machine

/-! ## A message closes with no channel at work (R92, R96) -/

theorem wake_idle {s : State} (ch0 : s.ch0 = none) (ch1 : s.ch1 = none) (n : Nat) : wake n s = s := by
  have first : wakeChan .ch0 n s = s := by rw [wakeChan, show s.chan .ch0 = none from ch0]
  rw [wake, first, wakeChan, show s.chan .ch1 = none from ch1]

theorem closeMessage_eq {s : State} (ch0 : s.ch0 = none) (ch1 : s.ch1 = none) {n : Nat} {r : Record} {h : Holder}
    (found : s.store.find n = some r) (holder : r.holder = some h) (st : MsgState) :
    closeMessage n st s = post (.messageClosed n st) (s.setStore ((s.store.setSlot h none).update n fun m =>
      { m with state := st, closedAt := some s.store.clock, holder := none })) := by
  rw [closeMessage, show findMsg n s = some r from found]
  dsimp only
  rw [holder]
  dsimp only
  rw [wake_idle]
  · exact ch0
  · exact ch1

/-- The received message closed as INCOMPLETE, if there is one. -/
def State.lineClosed (s : State) : State := match s.store.slotLine with
  | none => s
  | some n => post (.messageClosed n .incomplete) (s.setStore { s.store with
      slotLine := none
      directory := s.store.directory.map (fun q => if q.number = n then
        { q with state := .incomplete, closedAt := some s.store.clock, holder := none } else q) })

theorem closeLine_eq {s : State} (ch0 : s.ch0 = none) (ch1 : s.ch1 = none)
    (open_line : ∀ n, s.store.slotLine = some n → ∃ r, s.store.find n = some r ∧ r.holder = some .line) :
    closeLine .incomplete s = s.lineClosed := by
  rw [closeLine, State.lineClosed]
  cases slot : s.store.slotLine with
  | none => rfl
  | some n =>
    obtain ⟨r, found, holder⟩ := open_line n slot
    exact closeMessage_eq ch0 ch1 found holder .incomplete

theorem lineClosed_fields (s : State) : s.lineClosed.ch0 = s.ch0 ∧ s.lineClosed.ch1 = s.ch1 ∧ s.lineClosed.line = s.line
    ∧ s.lineClosed.dist = s.dist ∧ s.lineClosed.kb = s.kb ∧ s.lineClosed.calls = s.calls := by
  unfold State.lineClosed
  split <;> exact ⟨rfl, rfl, rfl, rfl, rfl, rfl⟩

theorem lineClosed_with (s : State) (l : LineUnit) (c : Calls) :
    ({ s with line := l, calls := c } : State).lineClosed = { s.lineClosed with line := l, calls := c } := by
  unfold State.lineClosed
  dsimp only
  cases s.store.slotLine <;> rfl

/-! ## The end (R168) -/

theorem holdBoth_idle {s : State} (ch0 : s.ch0 = none) (ch1 : s.ch1 = none) (why : HoldReason) : holdBoth why s = s := by
  rw [holdBoth, holdChan_idle (c := .ch0) ch0, told_silent, holdChan_idle (c := .ch1) ch1, told_silent]

theorem autoCut_none {s : State} (auto : s.calls.auto = none) : autoCut s = s := by rw [autoCut, auto]

/-- No channel, no capture and no automatic send is at work, and the LINE slot names a message held by the line. -/
def State.Quiet (s : State) : Prop := s.ch0 = none ∧ s.ch1 = none ∧ s.calls.auto = none ∧ s.calls.capturing = false
  ∧ ∀ n, s.store.slotLine = some n → ∃ r, s.store.find n = some r ∧ r.holder = some .line

theorem drainTest_idle {s : State} (idle : s.calls.state = .idle) :
    drainTest s = s.setCalls { s.calls with drainReq := s.calls.drainReq && s.store.directory.any Record.drains } := by
  rw [drainTest]
  cases owed : s.store.directory.any Record.drains with
  | false => rw [if_pos ⟨idle, rfl⟩, Bool.and_false]
  | true =>
    rw [if_neg fun h => Bool.noConfusion h.2, Bool.and_true]
    rfl

/-- A call that ends with nothing at work. -/
theorem callEnd_quiet {s : State} (quiet : s.Quiet) (cause : CallCause) : callEnd cause s = post (.call .idle cause) { s.lineClosed with
    line := { s.line with control := none }.leave .control
    dist := { s.dist with storeAdd := false }
    kb := { s.kb with callLock := false }
    calls := { s.calls with
      state := .idle, snapshot := none, phase := none, settleT := none, captureStartT := false, captureGapT := false
      idleT := none, breakGuardT := false, clearGuardT := false, wruPending := false
      drainReq := s.calls.drainReq && s.lineClosed.store.directory.any Record.drains } } := by
  obtain ⟨ch0, ch1, auto, capturing, open_line⟩ := quiet
  obtain ⟨t, at_t⟩ : ∃ t : State, t = { s with
      line := { s.line with control := none }.leave .control
      calls := { s.calls with
        settleT := none, captureStartT := false, captureGapT := false, idleT := none, breakGuardT := false
        clearGuardT := false, wruPending := false } } := ⟨_, rfl⟩
  have closes : autoCut (holdBoth .callEnd (closeLine .incomplete t)) = t.lineClosed := by
    obtain ⟨same0, same1, _, _, _, calls⟩ := lineClosed_fields t
    have t0 : t.ch0 = none := by rw [at_t]; exact ch0
    have t1 : t.ch1 = none := by rw [at_t]; exact ch1
    rw [closeLine_eq t0 t1 (by rw [at_t]; exact open_line), holdBoth_idle (same0.trans t0) (same1.trans t1),
      autoCut_none (by rw [calls, at_t]; exact auto)]
  have steps : callEnd cause s = drainTest (post (.call .idle cause) { t.lineClosed with
      dist := { t.lineClosed.dist with storeAdd := false }
      kb := { t.lineClosed.kb with callLock := false }
      calls := { t.lineClosed.calls with state := .idle, snapshot := none, phase := none } }) := by
    have prelude : leave .control ((s.setCalls { s.calls with
        settleT := none, captureStartT := false, captureGapT := false, idleT := none, breakGuardT := false
        clearGuardT := false, wruPending := false }).setLine { s.line with control := none }) = t := by rw [at_t]; rfl
    rw [← closes, ← prelude, callEnd, if_neg (by rw [capturing]; exact Bool.false_ne_true)]
    dsimp only [State.setCalls_calls, State.setCalls_line]
    generalize autoCut _ = u
    rfl
  rw [steps, drainTest_idle rfl, at_t, lineClosed_with]
  obtain ⟨_, _, _, dist, kb, _⟩ := lineClosed_fields s
  rw [← dist, ← kb]
  rfl

theorem unattended_iff (s : State) :
    unattended s = true ↔ s.calls.snapshot = some .unattended ∧ (s.calls.state = .incoming ∨ s.calls.state = .clearing) := by
  simp [unattended]

/-- A clear requested with no capture and no automatic send at work (R172). -/
theorem clearRequest_quiet {s : State} (in_call : s.calls.state = .incoming ∨ s.calls.state = .outgoing) (auto : s.calls.auto = none)
    (capturing : s.calls.capturing = false) (cause : ClearCause) : clearRequest cause s = post (.clearRequested cause) { s with
      calls := { s.calls with state := .clearing, clearGuardT := true, settleT := none, idleT := none } } := by
  rw [clearRequest, if_pos in_call]
  dsimp only
  rw [if_neg (by rw [show (post (.clearRequested cause) (s.setCalls { s.calls with
    state := .clearing, clearGuardT := true, settleT := none, idleT := none })).calls.capturing = false from capturing]
                 exact Bool.false_ne_true), autoCut_none (by exact auto)]
  rfl

/-- Settles O57. -/
theorem callsEnd : Obligations.CallsEnd := by
  intro s closed owed ended quiet
  have ends (q : quiet) (cause : CallCause) : callEnd cause s = ended cause := callEnd_quiet q cause
  refine ⟨fun p idle => if_pos idle, fun p busy q => ?_, fun guard q => ?_, fun guard q => ?_, fun off => ?_, fun off => ?_, fun none => ?_,
    fun t timer in_call attended => ?_, fun t timer incoming unat q => ?_⟩
  · have ran : exec (.callCleared p) s = .next (kick ((callEnd .callCleared s).done p 0x72 [])) := if_neg busy
    rw [ends q] at ran
    exact leaves_of_kick ran
  · have ran : exec .breakGuardExpiry s = .next (selfClear .breakIn s) := if_pos guard
    rw [selfClear, ends q] at ran
    exact leaves_of_kick ran
  · have ran : exec .clearingGuardExpiry s = .next (selfClear .clearing s) := if_pos guard
    rw [selfClear, ends q] at ran
    exact leaves_of_kick ran
  · exact if_neg (by rw [off]; exact Bool.false_ne_true)
  · exact if_neg (by rw [off]; exact Bool.false_ne_true)
  · exact if_neg (by rw [none]; exact Bool.false_ne_true)
  · have ran : exec .idleTimerExpiry s = .next (restartIdle (post .idleTimeout s)) :=
      (if_pos (by rw [timer]; rfl)).trans (if_neg fun un => attended ((unattended_iff s).mp un).1)
    rw [ran, restartIdle, if_pos (by exact in_call)]
    rfl
  · have ran : exec .idleTimerExpiry s = .next (kick (clearRequest .idle (closeLine .incomplete s))) :=
      (if_pos (by rw [timer]; rfl)).trans (if_pos ((unattended_iff s).mpr ⟨unat, .inl incoming⟩))
    obtain ⟨ch0, ch1, auto, capturing, open_line⟩ := q
    obtain ⟨_, _, _, _, _, calls⟩ := lineClosed_fields s
    rw [closeLine_eq ch0 ch1 open_line, clearRequest_quiet (.inl (by rw [calls]; exact incoming)) (by rw [calls]; exact auto)
      (by rw [calls]; exact capturing), calls] at ran
    exact leaves_of_kick ran

end Sys2Proof.Machine
end

section
-- One proof is elaborated at a time: the threads of many at once do not fit the memory a check allows.
set_option Elab.async false

/-! SUPPORT. The Identity Store's commands (R153 to R164): a slot's report, what PROGRAM and COMMIT refuse, and how their cells are
written. -/

namespace Sys2Proof.Machine

/-! ## A slot's report (R164, R193) -/

theorem IdSlot.left_eq (k : IdSlot) : k.left = k.count.countP fun w => w = false := by
  rw [IdSlot.left, ← List.countP_eq_length_filter]
  refine List.countP_congr fun w _ => ?_
  cases w <;> simp

/-- The check outcome of a slot whose wrong bits its check code tells apart. -/
theorem IdSlot.outcome_eq {k : IdSlot} (few : k.marker = true → k.wrongBits.length ≤ 2) :
    k.outcome = if k.marker then k.wrongBits.length else 3 := by
  unfold IdSlot.outcome
  split_ifs with marked
  · rw [IdSlot.verdict]
    rcases at_bits : k.wrongBits with _ | ⟨a, _ | ⟨b, _ | ⟨c, rest⟩⟩⟩
    · rfl
    · rfl
    · rfl
    · have := few marked
      rw [at_bits] at this
      simp at this
  · rfl

/-- The two bytes that READ SLOT gives for the operation in flight. -/
theorem idOp_eq (op : Option IdOp) : [optByte (op.map IdOp.kindIndex), optByte (op.bind IdOp.slot?)] = match op with
    | none => [0xFF, 0xFF]
    | some (.program n _ _) => [0, byteOf n]
    | some (.commit n _ _ _) => [1, byteOf n]
    | some .protect => [2, 0xFF]
    | some (.protectedFail _ n) => [3, byteOf n] := by
  rcases op with _ | (_ | _ | _ | _) <;> rfl

theorem slotBytes_eq {k : IdSlot} (few : k.marker = true → k.wrongBits.length ≤ 2) (i : Identity) : slotBytes k i = k.positions ++
    [k.length, byteOf (k.count.countP fun w => w = false), boolOf k.marker, if k.marker then byteOf k.wrongBits.length else 3,
      boolOf i.protect] ++ [optByte (i.op.map IdOp.kindIndex), optByte (i.op.bind IdOp.slot?)] ++
    (match i.latch with | some l => [byteOf l.slot, byteOf l.text.length] | none => [0xFF, 0]) ++ [boolOf i.wruResponse] := by
  have outcome : byteOf k.outcome = if k.marker then byteOf k.wrongBits.length else 3 := by
    rw [IdSlot.outcome_eq few]
    split_ifs <;> rfl
  rw [slotBytes, outcome, k.left_eq]
  cases i.latch <;> simp [List.append_assoc] <;> rfl

theorem Identity.slot_of {i : Identity} {n : Nat} {k : IdSlot} (at_n : i.slots[n]? = some k) : i.slot n = k := by
  rw [Identity.slot, List.getD_eq_getElem?_getD, at_n]
  rfl

theorem exec_readSlot {p : Port} {slot : Byte} {s : State} (low : slot.toNat ≤ 7) {t : State}
    (looks : (if s.ident.programming then drawFree (s.setIdent (s.ident.midProgram s.freeCount)) else s) = t) :
    exec (.readSlot p slot) s = .next (t.answer p ⟨0x60, .done, none, slotBytes (t.ident.slot slot.toNat) t.ident⟩) := by
  subst looks
  exact if_neg (by omega)

/-! ## What a write command refuses (R154, R155, R157) -/

theorem gapBelow_iff (i : Identity) (n : Nat) :
    i.gapBelow n = true ↔ ∃ (j : Nat) (l : IdSlot), j < n ∧ i.slots[j]? = some l ∧ l.marker = false := by
  rw [Identity.gapBelow, List.any_eq_true]
  refine ⟨fun ⟨l, inside, bare⟩ => ?_, fun ⟨j, l, below, at_j, bare⟩ => ⟨l, ?_, by simpa using bare⟩⟩
  · obtain ⟨j, bound, at_j⟩ := List.mem_take_iff_getElem.mp inside
    exact ⟨j, l, by omega, by rw [← at_j]; exact List.getElem?_eq_getElem _, by simpa using bare⟩
  · obtain ⟨bound, at_j⟩ := List.getElem?_eq_some_iff.mp at_j
    exact List.mem_take_iff_getElem.mpr ⟨j, by omega, at_j⟩

theorem checkSymbols_isNone (text : List Byte) : (checkSymbols text).isNone = true ↔ ∃ b ∈ text, ¬ SymbolPasses b := by
  refine ⟨fun none => ?_, fun bad => by rw [checkSymbols_refused bad]; rfl⟩
  by_contra bad
  rw [(checkSymbols_passes fun b inside => by_contra fun h => bad ⟨b, inside, h⟩).1] at none
  cases none

/-! ## A count cell is spent (R153, R156) -/

theorem IdSlot.spendCount_eq {k : IdSlot} {n : Nat} (spent : ∀ j, j < n → k.count[j]? = some true) (next : k.count[n]? = some false) :
    k.spendCount = if 184 + n ∈ k.deadBits then (k, false) else ({ k with count := k.count.set n true }, true) := by
  have found : k.nextCount = some n := by
    rw [IdSlot.nextCount, List.findIdx?_eq_some_iff_getElem]
    obtain ⟨bound, at_n⟩ := List.getElem?_eq_some_iff.mp next
    refine ⟨bound, by rw [at_n]; rfl, fun j below => ?_⟩
    obtain ⟨_, at_j⟩ := List.getElem?_eq_some_iff.mp (spent j below)
    rw [at_j]
    exact Bool.false_ne_true
  rw [IdSlot.spendCount, found]

theorem countP_set {count : List Bool} {n : Nat} (next : count[n]? = some false) :
    (count.set n true).countP (fun w => w = false) = count.countP (fun w => w = false) - 1 := by
  induction count generalizing n with
  | nil => cases next
  | cons w ws ih =>
    cases n with
    | zero =>
      cases next
      simp
    | succ n =>
      have some_left : 0 < ws.countP (fun w => w = false) := List.countP_pos_iff.mpr ⟨false, List.mem_of_getElem? next, rfl⟩
      rw [List.set_cons_succ, List.countP_cons, List.countP_cons, ih next]
      omega

theorem setSlot_same {i : Identity} {n : Nat} {k : IdSlot} (at_n : i.slots[n]? = some k) : i.setSlot n k = i := by
  obtain ⟨bound, at_n⟩ := List.getElem?_eq_some_iff.mp at_n
  rw [Identity.setSlot, ← at_n, List.set_getElem_self]

/-- Settles O54. -/
theorem slotsAreReadAndProgrammed : Obligations.SlotsAreReadAndProgrammed := by
  refine ⟨fun p slot s => ⟨fun high => if_pos high, fun low => ?_⟩, ?_, ?_⟩
  · intro result
    have reads {k : IdSlot} (few : k.marker = true → k.wrongBits.length ≤ 2) {i : Identity} (same : i.wruResponse = s.ident.wruResponse) :
        slotBytes k i = result i k := by
      have bytes := slotBytes_eq few (i := i)
      rw [idOp_eq, same] at bytes
      exact bytes
    refine ⟨fun k at_slot idle few => ?_, fun n first text old op at_n dead => ?_⟩
    · have still : s.ident.programming = false := by
        unfold Identity.programming
        split
        · next n first text op => exact absurd op (idle n first text)
        · rfl
      rw [exec_readSlot low (if_neg (by rw [still]; exact Bool.false_ne_true)), Identity.slot_of at_slot, reads few rfl]
    · obtain ⟨now, at_now⟩ : ∃ now, now = old.writeCut first text
          (min text.length (Config.programProgress s.freeCount)) (Config.programPartial s.freeCount) := ⟨_, rfl⟩
      have looks : s.ident.midProgram s.freeCount = { s.ident with slots := s.ident.slots.set n now } := by
        rw [Identity.midProgram, op]
        dsimp only
        rw [Identity.slot_of at_n, ← at_now]
        rfl
      have cut : old.CutAt now first text := at_now ▸ IdSlot.writeCut_cutAt dead first text (Nat.min_le_left ..) _
      refine ⟨now, _, cut, rfl, fun k at_slot few => ?_⟩
      have draws : (if s.ident.programming then drawFree (s.setIdent (s.ident.midProgram s.freeCount)) else s)
          = drawFree (s.setIdent { s.ident with slots := s.ident.slots.set n now }) := by
        rw [if_pos (by rw [Identity.programming, op]), looks]
      have there : (drawFree (s.setIdent { s.ident with slots := s.ident.slots.set n now })).ident.slot slot.toNat = k :=
        Identity.slot_of at_slot
      have bytes := reads few (i := (drawFree (s.setIdent { s.ident with slots := s.ident.slots.set n now })).ident) rfl
      rw [exec_readSlot low draws, there, bytes]
      rfl
  · intro p enable slot first text s c s0 refused bad some_text few
    have fits : ¬ (text = [] ∨ 20 < text.length) := by
      rintro (rfl | many)
      · cases some_text
      · omega
    have range : (7 < slot.toNat ∨ 20 < first.toNat + text.length ∨ (checkSymbols text).isNone = true) ↔ bad := by
      rw [checkSymbols_isNone]
    have ran : exec c s = execProgramSlot p enable slot first text s := rfl
    rw [execProgramSlot, if_neg fits] at ran
    refine ⟨fun b => ran.trans (if_pos (range.mpr b)), fun good low => ?_, fun good high busy => ?_, fun k good high free at_slot => ?_⟩
    · exact ran.trans ((if_neg (mt range.mp good)).trans (if_pos low))
    · rw [if_neg (mt range.mp good), if_neg (by rw [high]; exact fun h => Bool.noConfusion h),
        if_pos (Option.isSome_iff_ne_none.mpr busy)] at ran
      exact ran
    rw [if_neg (mt range.mp good), if_neg (by rw [high]; exact fun h => Bool.noConfusion h),
      if_neg (by rw [free]; exact Bool.false_ne_true), Identity.slot_of at_slot] at ran
    intro left gap
    have open_store (bare : s.ident.protect = false) : ¬ s.ident.protect = true := by rw [bare]; exact Bool.false_ne_true
    have unmarked (bare : k.marker = false) : ¬ k.marker = true := by rw [bare]; exact Bool.false_ne_true
    have some_left {n : Nat} (next : k.count[n]? = some false) : ¬ k.left = 0 := by
      rw [k.left_eq]
      exact Nat.pos_iff_ne_zero.mp (List.countP_pos_iff.mpr ⟨false, List.mem_of_getElem? next, rfl⟩)
    have begins (bare : s.ident.protect = false) (plain : k.marker = false) (none : ¬ gap) {n : Nat} (next : k.count[n]? = some false)
        {t : State} (begun : beginProgram slot.toNat first.toNat text s0 = t) {m : Nat} (count : (t.ident.slot slot.toNat).left = m) :
        exec c s = .next (t.answer p ⟨0x61, .started, Option.none, [slot, byteOf m]⟩) := by
      subst begun count
      rw [if_neg (open_store bare), if_neg (unmarked plain), if_neg (mt (gapBelow_iff ..).mp none), if_neg (some_left next)] at ran
      exact ran
    refine ⟨fun barred => ?_, fun bare marked => ?_, fun bare plain there => ?_, fun bare plain none spent => ?_,
      fun bare plain none n before next alive => ?_, fun bare plain none n before next dead => ?_⟩
    · rw [if_pos barred, k.left_eq] at ran
      exact ran
    · rw [if_neg (open_store bare), if_pos marked] at ran
      exact ran
    · rw [if_neg (open_store bare), if_neg (unmarked plain), if_pos ((gapBelow_iff ..).mpr there)] at ran
      exact ran
    · rw [if_neg (open_store bare), if_neg (unmarked plain), if_neg (mt (gapBelow_iff ..).mp none), if_pos (k.left_eq.trans spent)] at ran
      exact ran
    · have spends := IdSlot.spendCount_eq before next
      rw [if_neg alive] at spends
      have begun : beginProgram slot.toNat first.toNat text s0 = s0.setIdent { s.ident with
          slots := s.ident.slots.set slot.toNat { k with count := k.count.set n true }
          op := some (.program slot.toNat first.toNat text) } := by
        rw [beginProgram, show s0.ident.slot slot.toNat = k from Identity.slot_of at_slot, spends]
        rfl
      have spent : ({ s.ident with slots := s.ident.slots.set slot.toNat { k with count := k.count.set n true }
                                   op := some (.program slot.toNat first.toNat text) } : Identity).slot slot.toNat
          = { k with count := k.count.set n true } := by
        obtain ⟨bound, _⟩ := List.getElem?_eq_some_iff.mp at_slot
        exact Identity.slot_of (by simp [bound])
      have count : ({ k with count := k.count.set n true } : IdSlot).left = left - 1 := (IdSlot.left_eq _).trans (countP_set next)
      exact begins bare plain none next begun ((congrArg IdSlot.left spent).trans count)
    · have spends := IdSlot.spendCount_eq before next
      rw [if_pos dead] at spends
      have begun : beginProgram slot.toNat first.toNat text s0
          = post (.identityFail .program (some slot.toNat) .verify (some left)) s0 := by
        rw [beginProgram, show s0.ident.slot slot.toNat = k from Identity.slot_of at_slot, spends]
        dsimp only
        rw [if_neg Bool.false_ne_true, setSlot_same (by exact at_slot), k.left_eq]
        rfl
      have same : (post (.identityFail .program (some slot.toNat) .verify (some left)) s0).ident.slot slot.toNat = k :=
        Identity.slot_of at_slot
      exact begins bare plain none next begun ((congrArg IdSlot.left same).trans k.left_eq)
  · intro s n first text k op at_n dead within
    have written := IdSlot.writeRun_positions text dead first
    refine ⟨(k.writeRun first text).positions, ?_, fun j => ?_, ?_⟩
    · rw [written, List.length_mapIdx]
    · rw [written, List.getElem?_mapIdx]
      by_cases from_first : first ≤ j
      · rw [if_pos from_first]
        refine congrArg (fun f => Option.map f _) (funext fun old => ?_)
        rw [runWritten, if_pos from_first]
        cases text[j - first]? <;> rfl
      · rw [if_neg from_first, show runWritten first text j = id from funext fun old => if_neg from_first, Option.map_id, id]
    · intro same left
      have ran : exec .programCompletion s = execProgramCompletion s := rfl
      rw [execProgramCompletion, op] at ran
      dsimp only at ran
      rw [Identity.slot_of at_n] at ran
      have unspent : (k.writeRun first text).left = left := by rw [written, IdSlot.left_eq]
      have reads : (k.writeRun first text).readsAs first text = true ↔ same := by rw [IdSlot.readsAs, beq_iff_eq]
      rw [unspent] at ran
      rw [ran]
      by_cases good : same
      · rw [if_pos good, if_pos (reads.mpr good), written]
        rfl
      · rw [if_neg good, if_neg (mt reads.mp good), written]
        rfl

/-! ## COMMIT and PROTECT (R157 to R159) -/

theorem otpWrite_alive {w : Nat} (old new : BitVec w) (base : Nat) : otpWrite old new (deadMask w base []) = old &&& new := by
  simp [otpWrite, deadMask_nil]

theorem endCommit_eq (e : Event) (s : State) (i : Identity) : endCommit e (s.setIdent i) =
    postAll (loadFrom (endOp i).descending).2 (post e (s.setIdent { endOp i with latch := (loadFrom (endOp i).descending).1 })) := rfl

/-- A cell of a COMMIT is written (R158). -/
theorem exec_commitCellWrite {s : State} {n : Nat} {length : Byte} {code : Half} {written : Nat} {k l : IdSlot} {reads : Bool}
    (op : s.ident.op = some (.commit n length code written)) (at_n : s.ident.slots[n]? = some k)
    (writes : k.commitCell length code written = (l, reads)) : exec .commitCellWrite s = .next
      (if reads = false then endCommit (.identityFail .commit (some n) .verify none) (s.setIdent (s.ident.setSlot n l))
      else if written < 2 then s.setIdent { s.ident.setSlot n l with op := some (.commit n length code (written + 1)) }
      else endCommit (.identityDone .commit (some n) none) (s.setIdent (s.ident.setSlot n l))) := by
  change execCommitCellWrite s = _
  rw [execCommitCellWrite, op]
  dsimp only
  rw [Identity.slot_of at_n, writes]
  dsimp only
  split_ifs <;> rfl

/-- Settles O55. -/
theorem slotsAreCommitted : Obligations.SlotsAreCommitted := by
  refine ⟨?_, ?_, fun p enable s => ?_, fun s => ⟨fun op alive => ?_, fun commit n op => ?_⟩⟩
  · intro p enable slot length s c s0 refused bad
    have range : (7 < slot.toNat ∨ length.toNat < 1 ∨ 20 < length.toNat) ↔ bad := by
      have zero : length.toNat < 1 ↔ length = 0 := by
        rw [Nat.lt_one_iff, ← BitVec.toNat_inj]
        rfl
      rw [zero]
    have ran : exec c s = execCommitSlot p enable slot length s := rfl
    rw [execCommitSlot] at ran
    refine ⟨fun b => ran.trans (if_pos (range.mpr b)), fun good low => ?_, fun good high busy => ?_, fun k good high free at_slot => ?_⟩
    · exact ran.trans ((if_neg (mt range.mp good)).trans (if_pos low))
    · rw [if_neg (mt range.mp good), if_neg (by rw [high]; exact fun h => Bool.noConfusion h),
        if_pos (Option.isSome_iff_ne_none.mpr busy)] at ran
      exact ran
    rw [if_neg (mt range.mp good), if_neg (by rw [high]; exact fun h => Bool.noConfusion h),
      if_neg (by rw [free]; exact Bool.false_ne_true), Identity.slot_of at_slot] at ran
    intro gap unfit
    have open_store (bare : s.ident.protect = false) : ¬ s.ident.protect = true := by rw [bare]; exact Bool.false_ne_true
    have unmarked (bare : k.marker = false) : ¬ k.marker = true := by rw [bare]; exact Bool.false_ne_true
    have refuses : commitRefused k length.toNat = true ↔ unfit := checkSymbols_isNone _
    refine ⟨fun barred => ?_, fun bare marked => ?_, fun bare plain there => ?_, fun bare plain none bad_text => ?_, fun bare plain none fine => ?_⟩
    · rw [if_pos barred] at ran
      exact ran
    · rw [if_neg (open_store bare), if_pos marked] at ran
      exact ran
    · rw [if_neg (open_store bare), if_neg (unmarked plain), if_pos ((gapBelow_iff ..).mpr there)] at ran
      exact ran
    · rw [if_neg (open_store bare), if_neg (unmarked plain), if_neg (mt (gapBelow_iff ..).mp none), if_pos (refuses.mpr bad_text)] at ran
      exact ran
    · rw [if_neg (open_store bare), if_neg (unmarked plain), if_neg (mt (gapBelow_iff ..).mp none), if_neg (mt refuses.mp fine)] at ran
      exact ran
  · intro s n length code k at_n dead ended
    refine ⟨fun op => ⟨fun reads => ?_, fun differs => ⟨_, rfl, ?_⟩⟩, fun op => ⟨fun reads => ?_, fun differs => ⟨_, rfl, ?_⟩⟩, fun op => ⟨_, rfl, ?_⟩⟩
    · have writes : k.commitCell length code 0 = ({ k with length := length }, true) := by
        rw [IdSlot.commitCell, dead]
        rw [otpWrite_alive, reads, beq_self_eq_true]
      rw [exec_commitCellWrite op at_n writes]
      rfl
    · have writes : k.commitCell length code 0 = ({ k with length := k.length &&& length }, false) := by
        rw [IdSlot.commitCell, dead]
        rw [otpWrite_alive, beq_false_of_ne differs]
      rw [exec_commitCellWrite op at_n writes, if_pos rfl, endCommit_eq]
      rfl
    · have writes : k.commitCell length code 1 = ({ k with check := code, wrongBits := [] }, true) := by
        rw [IdSlot.commitCell, dead]
        rw [otpWrite_alive, if_pos reads, reads]
      rw [exec_commitCellWrite op at_n writes]
      rfl
    · have writes : k.commitCell length code 1 = ({ k with check := k.check &&& code }, false) := by
        rw [IdSlot.commitCell, dead]
        rw [otpWrite_alive, if_neg differs]
      rw [exec_commitCellWrite op at_n writes, if_pos rfl, endCommit_eq]
      rfl
    · have writes : k.commitCell length code 2 = ({ k with marker := true }, true) := by
        simp [IdSlot.commitCell, dead]
      rw [exec_commitCellWrite op at_n writes, if_neg (by decide), if_neg (by decide), endCommit_eq]
      rfl
  · intro s0
    have ran : exec (.protect p enable) s = execProtect p enable s := rfl
    rw [execProtect] at ran
    have on (high : enable = true) : ¬ enable = false := by rw [high]; exact fun h => Bool.noConfusion h
    have idle (free : s.ident.op = none) : ¬ s.ident.op.isSome = true := by rw [free]; exact Bool.false_ne_true
    refine ⟨fun low => ran.trans (if_pos low), fun high busy => ?_, fun high free done => ?_, fun high free bare => ?_⟩
    · exact ran.trans ((if_neg (on high)).trans (if_pos (Option.isSome_iff_ne_none.mpr busy)))
    · exact ran.trans ((if_neg (on high)).trans ((if_neg (idle free)).trans (if_pos done)))
    · exact ran.trans ((if_neg (on high)).trans ((if_neg (idle free)).trans (if_neg (by rw [bare]; exact Bool.false_ne_true))))
  · change execProtectCompletion s = _
    rw [execProtectCompletion, op]
    exact if_neg (by rw [alive]; exact Bool.false_ne_true)
  · change execProtectedFailCompletion s = _
    rw [execProtectedFailCompletion, op]
    rfl

end Sys2Proof.Machine
end

section
-- One proof is elaborated at a time: the threads of many at once do not fit the memory a check allows.
set_option Elab.async false

/-! SUPPORT. The commands on messages and their records: CREATE (R93), CLOSE and DELETE (R96, R103), READ RECORD and SET DELIVERY
(R98, R99). -/

namespace Sys2Proof.Machine

/-! ## CREATE (R93) -/

theorem createHolder_none {p : Port} {choice : Byte} (high : 1 < choice.toNat) : createHolder p choice = none := by
  rw [createHolder, if_neg, if_neg]
  · rintro rfl
    exact absurd high (by decide)
  · rintro rfl
    exact absurd high (by decide)

theorem createHolder_some {p : Port} {choice : Byte} (low : choice.toNat ≤ 1) :
    createHolder p choice = some (if choice = 0 then .port p else .keyboard) := by
  rw [createHolder]
  split_ifs with zero one
  · rfl
  · rfl
  · exact absurd (BitVec.eq_of_toNat_eq (show choice.toNat = (1 : Byte).toNat from
      le_antisymm low (Nat.one_le_iff_ne_zero.mpr fun h => zero (BitVec.eq_of_toNat_eq h)))) one

theorem Store.createAllowed_iff (t : Store) : t.createAllowed = true ↔ t.directory.length ≤ 43 := by
  simp only [Store.createAllowed, Config.directoryReserve, Config.directorySize, decide_eq_true_eq]
  omega

/-- The number of a message to be created: the first from the counter on that no record carries (R84). -/
theorem Store.nextFree_first (t : Store) : ∃ k, t.nextFree = nextNumber^[k] t.counter
    ∧ ∀ j, j < k → ∃ r ∈ t.directory, r.number = nextNumber^[j] t.counter := by
  obtain ⟨k, _, eq, carried, _⟩ := freeNumber_spec t.directory.length t.counter t.directory
  exact ⟨k, eq, fun j below => List.mem_map.mp (carried j below)⟩

theorem nextNumber_last {n : Nat} (small : n ≤ 9999) : nextNumber n = if n = 9999 then 1 else n + 1 := by
  rw [nextNumber]
  exact if_congr ⟨fun h => le_antisymm small h, fun h => h.ge⟩ rfl rfl

/-- Settles O37. -/
theorem messagesAreCreated : Obligations.MessagesAreCreated := by
  intro p choice s h
  have ran : exec (.create p choice) s = execCreate p choice s := rfl
  rw [execCreate] at ran
  have low (fine : choice.toNat ≤ 1) : createHolder p choice = some h := createHolder_some fine
  refine ⟨fun high => ?_, fun fine busy => ?_, fun fine free full => ?_, fun fine free room positive small => ?_⟩
  · rw [createHolder_none high] at ran
    exact ran
  · rw [low fine] at ran
    exact ran.trans (if_pos (Option.isSome_iff_ne_none.mpr busy))
  · rw [low fine] at ran
    exact ran.trans ((if_neg (by rw [free]; exact Bool.false_ne_true)).trans
      (if_neg fun h => absurd ((Store.createAllowed_iff _).mp h) (Nat.not_le.mpr full)))
  · rw [low fine] at ran
    obtain ⟨⟨least, most⟩, fresh⟩ := Store.nextFree_fresh ⟨positive, small⟩ (room.trans (by decide))
    obtain ⟨k, number, carried⟩ := s.store.nextFree_first
    refine ⟨k, s.store.nextFree, number, least, most, fun r inside same => fresh (List.mem_map.mpr ⟨r, inside, same⟩), carried, ?_⟩
    refine ran.trans ((if_neg (by rw [free]; exact Bool.false_ne_true)).trans ((if_pos ((Store.createAllowed_iff _).mpr room)).trans ?_))
    rw [Store.createMsg, nextNumber_last most]
    rfl

/-! ## CLOSE and DELETE (R96, R103) -/

theorem heldElsewhere_iff {p : Port} {r : Record} : heldElsewhere p r = true ↔ ∃ q, q ≠ p ∧ r.holder = some (.port q) := by
  rw [heldElsewhere]
  rcases r.holder with _ | (_ | _ | q) <;> simp

theorem mem_insertAsc {b c : Nat} : ∀ {l : List Nat}, c ∈ insertAsc b l ↔ c = b ∨ c ∈ l
  | [] => by simp [insertAsc]
  | d :: ds => by
    rw [insertAsc]
    split_ifs with less same
    · exact List.mem_cons
    · rw [same, List.mem_cons]
      tauto
    · rw [List.mem_cons, mem_insertAsc, List.mem_cons]
      tauto

theorem mem_insertAsc_fold {c : Nat} {bs : List ChainBlock} : ∀ {l : List Nat},
    c ∈ bs.foldl (fun set b => insertAsc b.block set) l ↔ c ∈ l ∨ ∃ b ∈ bs, b.block = c := by
  induction bs with
  | nil => simp
  | cons b bs ih =>
    intro l
    rw [List.foldl_cons, ih, mem_insertAsc]
    simp only [List.mem_cons, exists_eq_or_imp, eq_comm (a := c)]
    tauto

theorem filter_not_damaged (chain : List ChainBlock) :
    chain.filter (fun b => !b.damaged) = chain.filter (fun b => b.damaged = false) :=
  List.filter_congr fun b _ => by cases b.damaged <;> rfl

theorem length_not_damaged (chain : List ChainBlock) :
    chain.length - (chain.filter (·.damaged)).length = (chain.filter (fun b => b.damaged = false)).length := by
  rw [← filter_not_damaged, chain.length_eq_length_filter_add (·.damaged), Nat.add_sub_cancel_left]

/-- The drain's test over the marks of the calls: the request mark stands unless no message is owed while the state is IDLE (R180). -/
theorem drainTest_eq (s : State) : drainTest s = s.setCalls { s.calls with drainReq := s.calls.drainReq
    && !(s.calls.state == .idle && s.store.directory.all fun q => !q.printOwed || q.state == .opened) } := by
  have none_owed : s.store.directory.any Record.drains = !s.store.directory.all fun q => !q.printOwed || q.state == .opened := by
    rw [List.not_all_eq_any_not]
    congr 1
    funext q
    rw [Record.drains, Bool.not_or, Bool.not_not]
    rfl
  simp only [drainTest, none_owed, Bool.not_eq_false']
  by_cases ends : s.calls.state = .idle ∧ (s.store.directory.all fun q => !q.printOwed || q.state == .opened) = true
  · rw [if_pos ends, ends.1, ends.2, beq_self_eq_true, Bool.and_self, Bool.not_true, Bool.and_false]
  · have kept : (s.calls.state == .idle && s.store.directory.all fun q => !q.printOwed || q.state == .opened) = false := by
      rwa [Bool.eq_false_iff, ne_eq, Bool.and_eq_true, beq_iff_eq]
    rw [if_neg ends, kept, Bool.not_false, Bool.and_true]
    rfl

/-- The store without a message, its retired set aside (R103). -/
theorem Store.remove_eq (t : Store) {r : Record} {n : Nat} (number : r.number = n) : t.remove r =
    { (match r.holder with | some h => t.setSlot h none | none => t) with
      free := t.free ++ (r.chain.filter (fun b => b.damaged = false)).map (·.block)
      retired := (r.chain.filter (·.damaged)).foldl (fun set b => insertAsc b.block set) t.retired
      directory := t.directory.filter (fun q => q.number ≠ n) } := by
  rw [Store.remove, Store.releaseChain, filter_not_damaged, number]
  rcases r.holder with _ | (_ | _ | _ | _) <;> rfl

/-- Settles O40. -/
theorem messagesCloseAndGo : Obligations.MessagesCloseAndGo := by
  intro p message s
  have close : exec (.close p message) s = execClose p message s := rfl
  have delete : exec (.delete p message) s = execDelete p message s := rfl
  refine ⟨fun absent => ?_, fun r found => ?_⟩
  · have none : findMsg message.toNat s = none := Store.find_absent absent
    rw [execClose, none] at close
    rw [execDelete, none] at delete
    exact ⟨close, delete⟩
  rw [execClose, show findMsg message.toNat s = some r from found] at close
  rw [execDelete, show findMsg message.toNat s = some r from found] at delete
  dsimp only at close delete
  refine ⟨fun ended => close.trans (if_pos ended), fun opened away => ?_, fun h opened holder own ch0 ch1 => ?_,
    fun busy => delete.trans (if_pos busy), fun unread unsent opened away => ?_, ?_⟩
  · exact close.trans ((if_neg (not_not.mpr opened)).trans (if_pos (heldElsewhere_iff.mpr away)))
  · have here : ¬ heldElsewhere p r = true := fun away => by
      obtain ⟨q, other, held⟩ := heldElsewhere_iff.mp away
      exact other (own q (Option.some_injective _ (holder.symm.trans held)))
    refine leaves_of_kicked (close.trans ((if_neg (not_not.mpr opened)).trans (if_neg here))) ?_
    rw [closeMessage_eq ch0 ch1 found holder]
    rcases h with _ | _ | _ | _ <;> rfl
  · refine delete.trans ((if_neg ?_).trans (if_pos ⟨opened, heldElsewhere_iff.mpr away⟩))
    rintro (read | sending | ⟨_, line⟩)
    · exact absurd read (by rw [unread]; exact Nat.lt_irrefl 0)
    · exact unsent sending
    · obtain ⟨q, _, held⟩ := away
      rw [held] at line
      cases line
  · intro unread unsent own whole rest
    refine ⟨(r.chain.filter (·.damaged)).foldl (fun set b => insertAsc b.block set) s.store.retired, fun b => ?_, ?_⟩
    · rw [mem_insertAsc_fold]
      simp only [List.mem_filter, and_assoc]
    · rw [if_neg, if_neg] at delete
      · refine leaves_of_kicked delete ?_
        have freed : r.chain.length - (r.chain.filter (·.damaged)).length = whole.length := by
          rw [length_not_damaged, List.length_map]
        have spent : (r.chain.filter (·.damaged)).length = r.chain.length - whole.length := by
          have := List.length_filter_le (·.damaged) r.chain
          omega
        rw [freed, spent, drainTest_eq, s.store.remove_eq (Store.find_mem found).2]
        rcases r.holder with _ | (_ | _ | _ | _) <;> rfl
      · rintro ⟨opened, away⟩
        obtain ⟨q, other, held⟩ := heldElsewhere_iff.mp away
        exact other ((own opened).2 q held)
      · rintro (read | sending | ⟨opened, line⟩)
        · exact absurd read (by rw [unread]; exact Nat.lt_irrefl 0)
        · exact unsent sending
        · exact (own opened).1 line

/-! ## READ RECORD and SET DELIVERY (R98, R99, R193) -/

theorem indexed_none {t : Store} {n : Nat} (absent : ∀ r ∈ t.directory, r.number ≠ n) : t.indexed n = none :=
  List.find?_eq_none.mpr fun q inside => by simpa using absent q.1 (List.fst_mem_of_mem_zipIdx inside)

theorem indexed_some {t : Store} {n k : Nat} {r : Record} (distinct : (t.directory.map (·.number)).Nodup)
    (at_k : t.directory[k]? = some r) (number : r.number = n) : t.indexed n = some (r, k) := by
  have inside : (r, k) ∈ t.directory.zipIdx := List.mk_mem_zipIdx_iff_getElem?.mpr at_k
  cases found : t.indexed n with
  | none => exact absurd (List.find?_eq_none.mp found (r, k) inside) (by simp [number])
  | some q =>
    have at_q : t.directory[q.2]? = some q.1 := List.mem_zipIdx_iff_getElem?.mp (List.mem_of_find?_eq_some found)
    have same : q.1.number = n := by simpa using List.find?_some found
    have numbers : (t.directory.map (·.number))[k]? = (t.directory.map (·.number))[q.2]? := by
      rw [List.getElem?_map, List.getElem?_map, at_k, at_q, Option.map_some, Option.map_some, number, same]
    have index : k = q.2 := (List.getElem?_inj (by
      rw [List.length_map]
      exact (List.getElem?_eq_some_iff.mp at_k).1) distinct).mp numbers
    subst index
    rw [Option.some_injective _ (at_k.symm.trans at_q)]

theorem sevenMarks_eq : ∀ a b c d e f g : Bool,
    (boolOf a + 2 * boolOf b + 4 * boolOf c + 8 * boolOf d + 16 * boolOf e + 32 * boolOf f + 64 * boolOf g : Byte)
      = byteOf ((if a then 2 ^ 0 else 0) + (if b then 2 ^ 1 else 0) + (if c then 2 ^ 2 else 0) + (if d then 2 ^ 3 else 0)
        + (if e then 2 ^ 4 else 0) + (if f then 2 ^ 5 else 0) + if g then 2 ^ 6 else 0) := by decide

theorem msgState_eq (t : MsgState) : byteOf t.index = match t with | .opened => 0 | .closed => 1 | .incomplete => 2 := by
  cases t <;> rfl

theorem holder_eq (h : Option Holder) : optByte (h.map Holder.index) = match h with
    | some .line => 0 | some .keyboard => 1 | some (.port .s) => 2 | some (.port .x) => 3 | none => 0xFF := by
  rcases h with _ | _ | _ | _ | _ <;> rfl

theorem delivery_eq (d : Delivery) : byteOf d.index = match d with
    | .none => 0 | .ready => 1 | .sending => 2 | .sent => 3 | .failed => 4 | .held => 5 | .collected => 6 := by cases d <;> rfl

/-- A SET DELIVERY's option byte (R192). -/
theorem deliveryOptionOf_none : ∀ b : Byte, 2 < b.toNat → deliveryOptionOf b = none := by decide

theorem deliveryOptionOf_some : ∀ b : Byte, b.toNat ≤ 2 →
    deliveryOptionOf b = some (if b = 0 then .none else if b = 1 then .ready else .held) := by decide

theorem digitsOf_none {bytes : List Byte} (bad : ∃ d ∈ bytes, 9 < d.toNat) : digitsOf bytes = none := by
  obtain ⟨d, inside, large⟩ := bad
  exact if_neg fun all => absurd (List.all_eq_true.mp all d inside) (by simpa using large)

theorem digitsOf_some {bytes : List Byte} (fine : ∀ d ∈ bytes, d.toNat ≤ 9) : digitsOf bytes = some (bytes.map (·.toNat)) :=
  if_pos (List.all_eq_true.mpr fun d inside => decide_eq_true (fine d inside))

/-- A pattern all of whose bytes are positions is read as their positions (R5, R73, R191). -/
theorem checkPattern_read {bytes : List Byte} (fine : ∀ b ∈ bytes, b = 0x7F ∨ ∃ y : Symbol, y.wellFormed = true
    ∧ y.kind ≠ .explicitShift ∧ y.kind ≠ .blank ∧ y.toByte = b) :
    ∃ ps, checkPattern bytes = some ps ∧ ps.map PatPos.toByte = bytes := by
  induction bytes with
  | nil => exact ⟨[], rfl, rfl⟩
  | cons b bs ih =>
    obtain ⟨qs, read, back⟩ := ih fun c inside => fine c (List.mem_cons_of_mem b inside)
    have first : ∃ q, checkPosition b = some q ∧ q.toByte = b := by
      rcases fine b List.mem_cons_self with rfl | ⟨y, formed, shift, blank, rfl⟩
      · exact ⟨.dontCare, rfl, rfl⟩
      · refine ⟨.symbol y, checkPosition_toByte (q := .symbol y) fun z same => ?_, rfl⟩
        cases same
        exact ⟨formed, shift, blank⟩
    obtain ⟨q, one, byte⟩ := first
    exact ⟨q :: qs, by rw [checkPattern, one, read], by rw [List.map_cons, byte, back]⟩

/-- The record a SET DELIVERY leaves (R99), item by item. -/
theorem deliveryForms_eq {presence option : Byte} {identity destination : List Byte} {r : Record} {ps : List PatPos}
    (ident : presence.getLsbD 0 = true → identity.length ≤ 20 ∧ checkPattern identity = some ps)
    (dest : presence.getLsbD 1 = true → destination.length ≤ 16 ∧ ∀ d ∈ destination, d.toNat ≤ 9)
    (deliv : presence.getLsbD 2 = true → option.toNat ≤ 2) :
    deliveryForms presence option identity destination r = some { r with
      expected := if presence.getLsbD 0 then ps else r.expected
      destination := if presence.getLsbD 1 then destination.map (·.toNat) else r.destination
      delivery := if presence.getLsbD 2 then (if option = 0 then .none else if option = 1 then .ready else .held) else r.delivery
      attempts := if presence.getLsbD 2 then 0 else r.attempts } := by
  have first : (if present presence 0 then (if identity.length ≤ 20 then checkPattern identity else none) else some r.expected)
      = some (if presence.getLsbD 0 then ps else r.expected) := by
    unfold present
    split_ifs with given short
    · exact (ident given).2
    · exact absurd (ident given).1 short
    · rfl
  have second : (if present presence 1 then (if destination.length ≤ 16 then digitsOf destination else none)
      else some r.destination) = some (if presence.getLsbD 1 then destination.map (·.toNat) else r.destination) := by
    unfold present
    split_ifs with given short
    · exact digitsOf_some (dest given).2
    · exact absurd (dest given).1 short
    · rfl
  have third : (if present presence 2 then (deliveryOptionOf option).map (fun d => (d, 0)) else some (r.delivery, r.attempts))
      = some (if presence.getLsbD 2 then (if option = 0 then .none else if option = 1 then .ready else .held) else r.delivery,
          if presence.getLsbD 2 then 0 else r.attempts) := by
    unfold present
    by_cases given : presence.getLsbD 2 = true
    · rw [if_pos given, if_pos given, if_pos given, deliveryOptionOf_some option (deliv given)]
      rfl
    · rw [if_neg given, if_neg given, if_neg given]
  rw [deliveryForms, first, second, third]

/-- What R99 refuses RANGE. -/
theorem deliveryForms_none {presence option : Byte} {identity destination : List Byte} (r : Record)
    (bad : (presence.getLsbD 0 = true ∧ (20 < identity.length ∨ ∃ b ∈ identity, b ≠ 0x7F ∧ ∀ y : Symbol, y.wellFormed = true →
        y.kind ≠ .explicitShift → y.kind ≠ .blank → y.toByte ≠ b))
      ∨ (presence.getLsbD 1 = true ∧ (16 < destination.length ∨ ∃ d ∈ destination, 9 < d.toNat))
      ∨ (presence.getLsbD 2 = true ∧ 2 < option.toNat)) :
    deliveryForms presence option identity destination r = none := by
  rw [deliveryForms]
  unfold present
  rcases bad with ⟨given, wrong⟩ | ⟨given, wrong⟩ | ⟨given, wrong⟩
  · have none : (if identity.length ≤ 20 then checkPattern identity else none) = none := by
      rcases wrong with long | wrong
      · exact if_neg (Nat.not_le.mpr long)
      · rw [checkPattern_refused wrong, ite_self]
    rw [if_pos given, none]
  · have none : (if destination.length ≤ 16 then digitsOf destination else none) = none := by
      rcases wrong with long | wrong
      · exact if_neg (Nat.not_le.mpr long)
      · rw [digitsOf_none wrong, ite_self]
    rw [if_pos given, none]
    grind
  · rw [if_pos given, deliveryOptionOf_none option wrong]
    grind

/-- Settles O41. -/
theorem recordsAreReadAndSet : Obligations.RecordsAreReadAndSet := by
  unfold Obligations.RecordsAreReadAndSet
  intro two four bit run received deliveryByte record summary
  have bytes (r : Record) (index : Nat) : r.bytes index = record r index := by
    dsimp only [record, two, four, bit, run, received, deliveryByte]
    rw [Record.bytes, sevenMarks_eq, List.countP_eq_length_filter, holder_eq, msgState_eq, Record.flagsByte, fourMarks_eq]
    obtain ⟨_, kind, _, _, _, _, _, _, _, closed⟩ := r
    have prepared : (MsgKind.prepared == MsgKind.received) = false := rfl
    cases kind <;> cases closed <;> simp only [delivery_eq, prepared, Bool.false_eq_true, if_false, List.append_assoc] <;> rfl
  have total (t : Store) : t.summary = summary t := by
    dsimp only [summary, two, four]
    simp only [List.countP_eq_length_filter]
    rfl
  refine ⟨fun p value clear s low => ?_, fun p selector value clear s high => ?_, ?_⟩
  · obtain ⟨on, read, set⟩ : ∃ on, onOff clear = some on ∧ (on = true ↔ clear = 1) := ⟨_, onOff_getD clear low, by simp⟩
    have ran (selector : Byte) : exec (.readRecord p selector value clear) s = execReadRecord p selector value clear s := rfl
    simp only [execReadRecord, read] at ran
    refine ⟨fun r at_value => ?_, fun beyond => ?_, fun k r distinct at_k number => ?_, fun absent => ?_, ?_, fun selector high => ?_⟩
    · refine (ran 0).trans ?_
      rw [← bytes]
      change (match s.store.directory[value.toNat]? with | some r => _ | none => _) = _
      rw [at_value]
      rfl
    · refine (ran 0).trans ?_
      change (match s.store.directory[value.toNat]? with | some r => _ | none => _) = _
      rw [List.getElem?_eq_none beyond]
      rfl
    · refine (ran 1).trans ?_
      rw [← bytes]
      change (match s.store.indexed value.toNat with | some r => _ | none => _) = _
      rw [indexed_some distinct at_k number]
      rfl
    · refine (ran 1).trans ?_
      change (match s.store.indexed value.toNat with | some r => _ | none => _) = _
      rw [indexed_none absent]
      rfl
    · refine (ran 2).trans ?_
      rw [← total]
      change Host.Outcome.next ((s.setStore (if on = true then { s.store with corrected := 0, unstored := 0 } else s.store)).done p 0x34
        s.store.summary) = _
      by_cases one : clear = 1
      · rw [if_pos (set.mpr one), if_pos one]
        rfl
      · rw [if_neg (mt set.mp one), if_neg one]
        rfl
    · have past := ran selector
      rw [show selector.toNat = selector.toNat - 3 + 3 from (Nat.sub_add_cancel high).symm] at past
      exact past
  · have ran : exec (.readRecord p selector value clear) s = execReadRecord p selector value clear s := rfl
    rw [execReadRecord, onOff_none clear high] at ran
    exact ran
  · intro p message presence option identity destination s c refused bad
    have ran : exec c s = execSetDelivery p message presence option identity destination s := rfl
    rw [execSetDelivery] at ran
    refine ⟨fun absent => ?_, fun r found => ?_⟩
    · rw [show findMsg message.toNat s = none from Store.find_absent absent] at ran
      exact ran
    rw [show findMsg message.toNat s = some r from found] at ran
    dsimp only at ran
    refine ⟨fun received => ran.trans (if_pos received), fun prepared sending => ?_, fun prepared unsent wrong => ?_,
      fun prepared unsent fine => ?_⟩
    all_goals
      rw [if_neg (by rw [prepared]; exact fun h => MsgKind.noConfusion h)] at ran
    · exact ran.trans (if_pos sending)
    · rw [if_neg unsent, deliveryForms_none r wrong] at ran
      exact ran
    · rw [if_neg unsent] at ran
      obtain ⟨ident, dest, deliv⟩ : ¬ _ ∧ ¬ _ ∧ ¬ _ := by simpa only [bad, not_or] using fine
      have positions (given : presence.getLsbD 0 = true) : identity.length ≤ 20 ∧ ∃ ps, checkPattern identity = some ps
          ∧ ps.map PatPos.toByte = identity := by
        refine ⟨Nat.not_lt.mp fun long => ident ⟨given, .inl long⟩, checkPattern_read fun b inside => ?_⟩
        by_contra none
        obtain ⟨care, no_symbol⟩ := not_or.mp none
        exact ident ⟨given, .inr ⟨b, inside, care, fun y formed shift blank byte => no_symbol ⟨y, formed, shift, blank, byte⟩⟩⟩
      obtain ⟨ps, short⟩ : ∃ ps, presence.getLsbD 0 = true →
          identity.length ≤ 20 ∧ checkPattern identity = some ps ∧ ps.map PatPos.toByte = identity := by
        by_cases given : presence.getLsbD 0 = true
        · obtain ⟨length, ps, read, back⟩ := positions given
          exact ⟨ps, fun _ => ⟨length, read, back⟩⟩
        · exact ⟨[], fun h => absurd h given⟩
      refine ⟨ps, _, fun given => (short given).2.2, rfl, ?_⟩
      rw [deliveryForms_eq (fun given => ⟨(short given).1, (short given).2.1⟩)
        (fun given => ⟨Nat.not_lt.mp fun long => dest ⟨given, .inl long⟩,
          fun d inside => Nat.not_lt.mp fun large => dest ⟨given, .inr ⟨d, inside, large⟩⟩⟩)
        (fun given => Nat.not_lt.mp fun large => deliv ⟨given, large⟩)] at ran
      dsimp only at ran
      rw [Record.deliveryBytes, delivery_eq] at ran
      exact ran

end Sys2Proof.Machine
end

section
-- One proof is elaborated at a time: the threads of many at once do not fit the memory a check allows.
set_option Elab.async false

/-! SUPPORT. Blocks read and written (R80 to R82): what a write of a block leaves, what a read gives, the scrubber and the seconds clock
(R104, R105), and READ TEXT (R97). -/

namespace Sys2Proof.Machine

/-! ## Blocks in a sound store (R83) -/

theorem Store.find_own {t : Store} (distinct : (t.directory.map (·.number)).Nodup) {r : Record} (inside : r ∈ t.directory) : t.find r.number = some r := by
  cases found : t.find r.number with
  | none => exact absurd (List.find?_eq_none.mp found r inside) (by simp)
  | some q =>
    obtain ⟨q_inside, same⟩ := Store.find_mem found
    rw [number_unique distinct q_inside inside same]

theorem Store.Sound.blocks_nodup {t : Store} (w : t.Sound) : (blocksOf t.directory).Nodup :=
  (List.nodup_append.mp (w.blocks.nodup_iff.mpr List.nodup_range)).2.1

/-- A block stands in one chain, at one index (R83). -/
theorem Store.Sound.block_unique {t : Store} (w : t.Sound) {q r : Record} (hq : q ∈ t.directory) (hr : r ∈ t.directory) {i j : Nat}
    {k l : ChainBlock} (at_i : q.chain[i]? = some k) (at_j : r.chain[j]? = some l) (same : k.block = l.block) : q = r ∧ i = j := by
  obtain ⟨one, disjoint⟩ := List.nodup_flatMap.mp w.blocks_nodup
  have record : q = r := by
    by_contra other
    have symmetric : Std.Symm (Function.onFun List.Disjoint fun r : Record => r.chain.map (·.block)) := ⟨fun _ _ apart => apart.symm⟩
    refine disjoint.forall hq hr other (List.mem_map_of_mem (List.mem_of_getElem? at_i)) ?_
    rw [same]
    exact List.mem_map_of_mem (List.mem_of_getElem? at_j)
  subst record
  have i_lt : i < (q.chain.map (·.block)).length := by
    rw [List.length_map]
    exact (List.getElem?_eq_some_iff.mp at_i).1
  refine ⟨rfl, (List.getElem?_inj i_lt (one q hq)).mp ?_⟩
  rw [List.getElem?_map, List.getElem?_map, at_i, at_j, Option.map_some, Option.map_some, same]

theorem Store.Holds.find {t : Store} (w : t.Sound) {b idx : Nat} {r : Record} (held : t.Holds b r idx) :
    ∃ k, t.find r.number = some r ∧ r.chain[idx]? = some k ∧ k.block = b ∧ k.damaged = false := by
  obtain ⟨inside, k, at_idx, block, whole⟩ := held
  exact ⟨k, Store.find_own w.distinct inside, at_idx, block, whole⟩

/-! ## A block written (R80) -/

theorem Store.wrongOf_writeBlock (t : Store) (b : Nat) (bytes : List Byte) (k : Nat) :
    (t.writeBlock b bytes).wrongOf k = if k = b then [] else t.wrongOf k := by
  rw [Store.wrongOf, Store.wrongOf, Store.writeBlock, List.find?_filter]
  split_ifs with own
  · rw [List.find?_eq_none.mpr]
    rintro e _ hit
    simp [own] at hit
  · have same : (fun e : Nat × List Nat => decide (decide (e.1 ≠ b) = true ∧ (e.1 == k) = true)) = fun e => e.1 == k := by
      funext e
      by_cases hit : e.1 = k
      · simp [hit, own]
      · simp [hit]
    rw [same]

/-- The bits of block b turned back: bit e of its 32 bytes, or one of its code (R81). -/
theorem Store.read_flipped (t : Store) (w : Memory.wf t.memory = true) (b e a : Nat) :
    Memory.read (t.writeBlock b (flipBit (t.blockBytes b) e)).memory a = if e < 256 ∧ a = 32 * b + e / 8
      then Memory.read t.memory a ^^^ (1#8 <<< (e % 8)) else Memory.read t.memory a := by
  have length : (flipBit (t.blockBytes b) e).length = 32 := (flipBit_length _ _).trans (blockBytes_length _ _)
  obtain ⟨_, inside, outside⟩ := writeBlock_spec t b (flipBit (t.blockBytes b) e) w length.le
  by_cases own : 32 * b ≤ a ∧ a < 32 * (b + 1)
  · obtain ⟨i, small, rfl⟩ : ∃ i, i < 32 ∧ a = 32 * b + i := ⟨a - 32 * b, by omega, by omega⟩
    have stored : (t.blockBytes b)[i]? = some (Memory.read t.memory (32 * b + i)) := by
      rw [Store.blockBytes, Memory.readRun, List.getElem?_map, List.getElem?_range small]
      rfl
    have flipped := inside i (length.symm ▸ small)
    rw [show Config.blockSize = 32 from rfl] at flipped
    rw [flipped, ← Option.some_inj, ← List.getElem?_eq_getElem, flipBit, List.getElem?_modify, stored]
    by_cases hit : e / 8 = i
    · rw [if_pos ⟨by omega, by omega⟩]
      exact congrArg some (if_pos hit)
    · rw [if_neg (by omega)]
      exact congrArg some (if_neg hit)
  · rw [if_neg (by omega)]
    exact outside a (by simp only [Config.blockSize]; omega)

/-! ## A block read (R81, R82) -/

theorem readBlock_reads {n idx : Nat} (who : Reader) (self : Option Chan) {s : State} {r : Record} {b : ChainBlock}
    (found : s.store.find n = some r) (at_idx : r.chain[idx]? = some b) (clean : b.damaged = false → s.store.wrongOf b.block = []) :
    readBlock n idx who self s = ⟨s, s.store.readsAs b, b.damaged⟩ := by
  cases whole : b.damaged with
  | true => rw [readBlock_damaged who self found at_idx whole, Store.readsAs, if_pos whole]
  | false => rw [readBlock_clean who self found at_idx whole (clean whole), Store.readsAs_sound whole]

theorem blockChanged_idle {s : State} (ch0 : s.ch0 = none) (ch1 : s.ch1 = none) (n idx : Nat) (fresh : List Symbol)
    (self : Option Chan) : blockChanged n idx fresh self s = s := by
  rw [blockChanged, ch0, ch1]
  obtain ⟨⟩ := s
  dsimp only at ch0 ch1
  subst ch0 ch1
  simp

/-- The store after block b has been read with its bit e wrong: written back with that bit turned, and counted (R81). -/
def Store.corrects (t : Store) (b e : Nat) : Store :=
  { t.writeBlock b (flipBit (t.blockBytes b) e) with corrected := bump t.corrected }

theorem Store.wrongOf_corrects (t : Store) (b e k : Nat) : (t.corrects b e).wrongOf k = if k = b then [] else t.wrongOf k :=
  t.wrongOf_writeBlock b (flipBit (t.blockBytes b) e) k

/-- The store after block idx of message n has been found DAMAGED (R81). -/
def Store.damages (t : Store) (n idx : Nat) : Store := { t with
  directory := t.directory.map (fun q => if q.number = n then { q with
    damaged := true, chain := q.chain.modify idx (fun k => { k with damaged := true }) } else q) }

theorem readBlock_corrected {n idx : Nat} (who : Reader) (self : Option Chan) {s : State} {r : Record} {b : ChainBlock} {e : Nat}
    (found : s.store.find n = some r) (at_idx : r.chain[idx]? = some b) (whole : b.damaged = false)
    (wrong : s.store.wrongOf b.block = [e]) (ch0 : s.ch0 = none) (ch1 : s.ch1 = none) :
    (readBlock n idx who self s).state = setFlag .storeCorrected (s.setStore (s.store.corrects b.block e))
      ∧ (readBlock n idx who self s).damaged = false := by
  rw [readBlock, show findMsg n s = some r from found, Option.bind_some, at_idx]
  dsimp only
  rw [if_neg (by rw [whole]; exact Bool.false_ne_true), wrong]
  exact ⟨blockChanged_idle (s := setFlag .storeCorrected (s.setStore (s.store.corrects b.block e))) ch0 ch1 .., rfl⟩

theorem readBlock_uncorrectable {n idx : Nat} (who : Reader) (self : Option Chan) {s : State} {r : Record} {b : ChainBlock} {e f : Nat}
    (found : s.store.find n = some r) (at_idx : r.chain[idx]? = some b) (whole : b.damaged = false)
    (wrong : s.store.wrongOf b.block = [e, f]) :
    (readBlock n idx who self s).state = post (.storeDamaged n idx who) (setFlag .storeUncorrectable (s.setStore (s.store.damages n idx)))
      ∧ (readBlock n idx who self s).damaged = true := by
  rw [readBlock, show findMsg n s = some r from found, Option.bind_some, at_idx]
  dsimp only
  rw [if_neg (by rw [whole]; exact Bool.false_ne_true), wrong]
  exact ⟨rfl, rfl⟩

/-! ## The scrubber (R104) -/

theorem Store.mem_inUse {t : Store} {b n idx : Nat} : (b, n, idx) ∈ t.inUse ↔ ∃ r, t.Holds b r idx ∧ r.number = n := by
  simp only [Store.inUse, Store.Holds, List.mem_flatMap, List.mem_map, List.mem_filter, Prod.exists, Prod.mk.injEq,
    List.mk_mem_zipIdx_iff_getElem?, Bool.not_eq_true']
  constructor
  · rintro ⟨r, inside, k, j, ⟨at_j, whole⟩, block, number, rfl⟩
    exact ⟨r, ⟨inside, k, at_j, block, whole⟩, number⟩
  · rintro ⟨r, ⟨inside, k, at_j, block, whole⟩, number⟩
    exact ⟨r, inside, k, idx, ⟨at_j, whole⟩, block, number, rfl⟩

theorem leastFirst_none {l : List (Nat × Nat × Nat)} (h : leastFirst l = none) : l = [] := by
  cases l with
  | nil => rfl
  | cons e es =>
    rw [leastFirst] at h
    cases later : leastFirst es with
    | none =>
      rw [later] at h
      cases h
    | some f =>
      rw [later] at h
      dsimp only at h
      split_ifs at h

theorem leastFirst_spec {l : List (Nat × Nat × Nat)} {e : Nat × Nat × Nat} (h : leastFirst l = some e) :
    e ∈ l ∧ ∀ f ∈ l, e.1 ≤ f.1 := by
  induction l generalizing e with
  | nil => cases h
  | cons a as ih =>
    rw [leastFirst] at h
    cases later : leastFirst as with
    | none =>
      rw [later] at h
      cases h
      rw [leastFirst_none later]
      simp
    | some f =>
      obtain ⟨inside, least⟩ := ih later
      rw [later] at h
      dsimp only at h
      split_ifs at h with less
      · cases h
        exact ⟨List.mem_cons_of_mem _ inside, fun g hg => (List.mem_cons.mp hg).elim (fun same => same ▸ less.le) (least g)⟩
      · cases h
        refine ⟨List.mem_cons_self, fun g hg => (List.mem_cons.mp hg).elim (fun same => same ▸ le_rfl) fun later => ?_⟩
        exact (Nat.not_lt.mp less).trans (least g later)

/-- The least IN USE block of a sound store among those of a list. -/
theorem Store.Sound.leastFirst_eq {t : Store} (w : t.Sound) {l : List (Nat × Nat × Nat)} (part : ∀ e ∈ l, e ∈ t.inUse) {b idx : Nat}
    {r : Record} (held : t.Holds b r idx) (inside : (b, r.number, idx) ∈ l) (least : ∀ e ∈ l, b ≤ e.1) :
    leastFirst l = some (b, r.number, idx) := by
  cases found : leastFirst l with
  | none =>
    rw [leastFirst_none found] at inside
    cases inside
  | some e =>
    obtain ⟨c, n, j⟩ := e
    obtain ⟨e_inside, e_least⟩ := leastFirst_spec found
    have block : c = b := le_antisymm (e_least _ inside) (least _ e_inside)
    subst block
    obtain ⟨q, ⟨hq, k, at_j, same, _⟩, rfl⟩ := Store.mem_inUse.mp (part _ e_inside)
    obtain ⟨hr, l, at_idx, own, _⟩ := held
    obtain ⟨rfl, rfl⟩ := w.block_unique hq hr at_j at_idx (same.trans own.symm)
    rfl

theorem Store.Sound.nextScrub_eq {t : Store} (w : t.Sound) {b idx : Nat} {r : Record} (held : t.Holds b r idx)
    (next : (t.scrubPos < b ∧ ∀ c q j, t.Holds c q j → t.scrubPos < c → b ≤ c)
      ∨ ((∀ c q j, t.Holds c q j → c ≤ t.scrubPos) ∧ ∀ c q j, t.Holds c q j → b ≤ c)) :
    t.nextScrub = some (b, r.number, idx) := by
  have used : (b, r.number, idx) ∈ t.inUse := Store.mem_inUse.mpr ⟨r, held, rfl⟩
  rw [Store.nextScrub]
  rcases next with ⟨above, least⟩ | ⟨none, least⟩
  · rw [w.leastFirst_eq (fun e inside => (List.mem_filter.mp inside).1) held
      (List.mem_filter.mpr ⟨used, decide_eq_true above⟩)]
    intro e inside
    obtain ⟨e_used, e_above⟩ := List.mem_filter.mp inside
    obtain ⟨q, q_held, _⟩ := Store.mem_inUse.mp e_used
    exact least _ _ _ q_held (of_decide_eq_true e_above)
  · have empty : t.inUse.filter (fun e => t.scrubPos < e.1) = [] := List.filter_eq_nil_iff.mpr fun e e_used => by
      obtain ⟨q, q_held, _⟩ := Store.mem_inUse.mp e_used
      simpa using none _ _ _ q_held
    rw [empty]
    refine w.leastFirst_eq (fun _ => id) held used fun e e_used => ?_
    obtain ⟨q, q_held, _⟩ := Store.mem_inUse.mp e_used
    exact least _ _ _ q_held

theorem exec_scrub {s : State} {b n idx : Nat} (next : s.store.nextScrub = some (b, n, idx)) {t : State}
    (read : (readBlock n idx .scrubber none s).state = t) : exec .scrub s = .next (t.setStore { t.store with scrubPos := b }) := by
  change execScrub s = _
  rw [execScrub, next, ← read]

/-- Settles O43. -/
theorem theScrubberAndTheClockRun : Obligations.TheScrubberAndTheClockRun := by
  refine ⟨fun p w s => ⟨rfl, _, rfl, rfl, BitVec.toNat_add ..⟩, fun s unused => ?_, fun s b idx r w ch0 ch1 held next => ?_⟩
  · have empty : s.store.inUse = [] := List.eq_nil_iff_forall_not_mem.mpr fun e used => by
      obtain ⟨q, q_held, _⟩ := Store.mem_inUse.mp used
      exact unused _ _ _ q_held
    have none : s.store.nextScrub = none := by rw [Store.nextScrub, empty]; rfl
    change execScrub s = _
    rw [execScrub, none]
  · have scrubs {t : State} := exec_scrub (t := t) (w.nextScrub_eq held next)
    obtain ⟨k, found, at_idx, rfl, whole⟩ := held.find w
    refine ⟨fun clean => ?_, fun e wrong => ?_, fun e f wrong => ?_⟩
    · exact scrubs (congrArg _ (readBlock_clean .scrubber none found at_idx whole clean))
    · refine ⟨{ s.store.corrects k.block e with scrubPos := k.block },
        scrubs (readBlock_corrected .scrubber none found at_idx whole wrong ch0 ch1).1,
        s.store.read_flipped w.canonical k.block e, ?_, fun c other => ?_, rfl⟩
      · exact (s.store.wrongOf_corrects k.block e k.block).trans (if_pos rfl)
      · exact (s.store.wrongOf_corrects k.block e c).trans (if_neg other)
    · exact scrubs (readBlock_uncorrectable .scrubber none found at_idx whole wrong).1

/-! ## READ TEXT (R97) -/

/-- The symbols of a block's text, as a reader gets them (R81, R82, R97). -/
def Store.symbolsOf (t : Store) (b : ChainBlock) : List Symbol := (t.readsAs b).take b.fill

theorem Store.symbolsOf_length {b : ChainBlock} (small : b.fill ≤ 32) (t : Store) : (t.symbolsOf b).length = b.fill := by
  rw [Store.symbolsOf, List.length_take, Store.readsAs]
  split_ifs
  · rw [List.length_replicate, Nat.min_self]
  · rw [List.length_map, blockBytes_length]
    exact Nat.min_eq_left small

theorem Symbol.ofByte_toByte : ∀ b : Byte, Symbol.ofByte? b ≠ none → (Symbol.ofByte b).toByte = b := by decide

theorem Store.symbolsOf_bytes {t : Store} {b : ChainBlock} (stored : ∀ y ∈ t.blockText b, Symbol.ofByte? y ≠ none) :
    (t.symbolsOf b).map Symbol.toByte = t.blockText b := by
  rw [Store.symbolsOf, Store.readsAs]
  rw [Store.blockText] at stored ⊢
  split_ifs at stored ⊢
  · rw [List.map_take, List.map_replicate, List.take_replicate, Nat.min_self]
    rfl
  · rw [← List.map_take, List.map_map]
    refine (List.map_congr_left fun y inside => ?_).trans (List.map_id _)
    exact Symbol.ofByte_toByte y (stored y inside)

theorem drop_append_past {α : Type} {xs ys : List α} {skip : Nat} (past : xs.length ≤ skip) :
    (xs ++ ys).drop skip = ys.drop (skip - xs.length) := by
  rw [List.drop_append, List.drop_eq_nil_of_le past, List.nil_append]

theorem take_drop_append {α : Type} {xs ys : List α} {skip take : Nat} (within : skip ≤ xs.length) :
    ((xs ++ ys).drop skip).take take = (xs.drop skip).take (min take (xs.length - skip))
      ++ ys.take (take - min take (xs.length - skip)) := by
  rw [List.drop_append, List.take_append, List.length_drop, Nat.sub_eq_zero_of_le within, List.drop_zero]
  congr 1
  · rw [List.take_eq_take_min, List.length_drop]
  · congr 1
    omega

/-- Pieces read from a chain whose blocks read clean (R97): their symbols, and whether one stands in a DAMAGED block. -/
theorem readSpans_eq {n : Nat} {s : State} {r : Record} (found : s.store.find n = some r) (clean : s.store.Clean r)
    (small : ∀ b ∈ r.chain, b.fill ≤ 32) {rest : List ChainBlock} : ∀ {before : List ChainBlock} (_ : r.chain = before ++ rest)
    (skip take : Nat), ∃ bad : Bool, (bad = true ↔ true ∈ ((rest.flatMap fun b => List.replicate b.fill b.damaged).drop skip).take take)
      ∧ readSpans n (spans rest before.length skip take) s = (s, ((rest.flatMap s.store.symbolsOf).drop skip).take take, bad) := by
  induction rest with
  | nil =>
    intro before _ skip take
    refine ⟨false, by simp, ?_⟩
    simp [spans, readSpans]
  | cons b bs ih =>
    intro before split skip take
    have in_chain : b ∈ r.chain := by simp [split]
    have length := s.store.symbolsOf_length (small b in_chain)
    have split' : r.chain = (before ++ [b]) ++ bs := by rw [split, List.append_assoc]; rfl
    have next : (before ++ [b]).length = before.length + 1 := List.length_append
    rw [spans]
    by_cases zero : take = 0
    · rw [if_pos zero, zero]
      exact ⟨false, by simp, by simp [readSpans]⟩
    rw [if_neg zero]
    by_cases past : b.fill ≤ skip
    · rw [if_pos past, ← next]
      obtain ⟨bad, meaning, read⟩ := ih split' (skip - b.fill) take
      refine ⟨bad, meaning.trans ?_, read.trans ?_⟩
      · rw [List.flatMap_cons, drop_append_past (by rwa [List.length_replicate]), List.length_replicate]
      · rw [List.flatMap_cons, drop_append_past (length.trans_le past), length]
    · rw [if_neg past, ← next]
      obtain ⟨bad, meaning, read⟩ := ih split' 0 (take - min take (b.fill - skip))
      refine ⟨b.damaged || bad, ?_, ?_⟩
      · have within : skip ≤ (List.replicate b.fill b.damaged).length := by
          rw [List.length_replicate]
          exact (Nat.not_le.mp past).le
        rw [List.flatMap_cons, take_drop_append within, List.length_replicate, List.mem_append, Bool.or_eq_true, meaning,
          List.drop_replicate, List.take_replicate, List.mem_replicate, List.drop_zero]
        refine or_congr ⟨fun h => ⟨by omega, h.symm⟩, fun h => h.2.symm⟩ Iff.rfl
      · have at_b : r.chain[before.length]? = some b := getElem?_split split
        rw [List.flatMap_cons, take_drop_append (length.symm ▸ (Nat.not_le.mp past).le), length, readSpans,
          readBlock_reads .readText none found at_b (clean b in_chain)]
        dsimp only
        rw [read, Store.symbolsOf, List.drop_take, List.take_take, List.drop_zero, Nat.min_eq_left (Nat.min_le_right ..)]

/-- Settles O39. -/
theorem textIsReadBack : Obligations.TextIsReadBack := by
  intro p message first count s c
  have ran : exec c s = execReadText p message first count s := rfl
  rw [execReadText] at ran
  refine ⟨fun absent => ?_, fun r found => ?_⟩
  · rw [show findMsg message.toNat s = none from Store.find_absent absent] at ran
    exact ran
  rw [show findMsg message.toNat s = some r from found] at ran
  dsimp only at ran
  refine ⟨fun refused => ran.trans (if_pos ?_), ?_⟩
  · refine refused.imp_left fun zero => ?_
    rw [zero]
    decide
  · intro least most within clean small stored read bad
    have text : s.store.textOf message.toNat = r.chain.flatMap s.store.blockText := by rw [Store.textOf, found]
    rw [if_neg (by rw [Record.length]; omega)] at ran
    obtain ⟨damaged, meaning, reads⟩ := readSpans_eq found clean small (before := []) (rest := r.chain) rfl first.toNat
      (min count.toNat (r.length - first.toNat))
    have text_symbols : (r.chain.flatMap s.store.symbolsOf).map Symbol.toByte = s.store.textOf message.toNat := by
      rw [text, List.map_flatMap]
      refine List.flatMap_congr fun b inside => Store.symbolsOf_bytes fun y of_b => stored y ?_
      rw [text]
      exact List.mem_flatMap.mpr ⟨b, inside, of_b⟩
    have text_length : (s.store.textOf message.toNat).length = r.length := by
      rw [← text_symbols, List.length_map, List.length_flatMap, Record.length]
      exact congrArg _ (List.map_congr_left fun b inside => s.store.symbolsOf_length (small b inside))
    have marks_length : (r.chain.flatMap fun b => List.replicate b.fill b.damaged).length = r.length := by
      rw [List.length_flatMap, Record.length]
      exact congrArg _ (List.map_congr_left fun b _ => List.length_replicate)
    have given : ((s.store.textOf message.toNat).drop first.toNat).take (min count.toNat (r.length - first.toNat)) = read := by
      rw [← text_length, ← List.length_drop, ← List.take_eq_take_min]
    have marked : damaged = true ↔ true ∈ bad := by
      rw [meaning, ← marks_length, ← List.length_drop, ← List.take_eq_take_min]
    rw [List.length_nil] at reads
    rw [reads] at ran
    dsimp only at ran
    rw [List.map_take, List.map_drop, text_symbols, given] at ran
    exact ran.trans (by rw [if_congr marked rfl rfl]; rfl)

end Sys2Proof.Machine
end

section
-- One proof is elaborated at a time: the threads of many at once do not fit the memory a check allows.
set_option Elab.async false

/-! SUPPORT. Messages owed to the printer (R101, R180): CLEAR OWED, PRINT OWED, the drain's start, and what CH1 reports to it. -/

namespace Sys2Proof.Machine

/-! ## The owed marks (R101) -/

theorem owedFlags_iff (flags : Byte) : owedFlags flags = true ↔ flags = 4 ∨ flags = 8 ∨ flags = 12 := decide_eq_true_iff

/-- What the flags byte of a CLEAR OWED leaves of each mark. -/
theorem owed_left (flags : Byte) (named : flags = 4 ∨ flags = 8 ∨ flags = 12) :
    (!flags.getLsbD 2) = (flags == 8) ∧ (!flags.getLsbD 3) = (flags == 4) := by
  rcases named with rfl | rfl | rfl <;> decide

/-- Where numbers are distinct, replacing the record found changes that record as a function of each would. -/
theorem map_found {t : Store} (distinct : (t.directory.map (·.number)).Nodup) {n : Nat} {r : Record} (found : t.find n = some r)
    (f : Record → Record) : t.directory.map (fun q => if q.number = n then f r else q)
      = t.directory.map (fun q => if q.number = n then f q else q) := by
  obtain ⟨inside, number⟩ := Store.find_mem found
  refine List.map_congr_left fun q q_inside => ?_
  by_cases own : q.number = n
  · rw [if_pos own, if_pos own, number_unique distinct q_inside inside (own.trans number.symm)]
  · rw [if_neg own, if_neg own]

theorem drains_count (d : List Record) :
    (d.filter Record.drains).length = d.countP (fun r => r.printOwed && r.state != .opened) := List.countP_eq_length_filter.symm

/-! ## The drain (R180) -/

theorem find_first {d before after : List Record} {r : Record} (split : d = before ++ r :: after)
    (passed : ∀ q ∈ before, q.printOwed = false ∨ q.state = .opened) (owed : r.printOwed = true) (shut : r.state ≠ .opened) :
    d.find? Record.drains = some r := by
  have skipped : before.find? Record.drains = none := List.find?_eq_none.mpr fun q inside => by
    rcases passed q inside with clear | opened
    · simp [Record.drains, clear]
    · simp [Record.drains, opened]
  rw [split, List.find?_append, skipped, Option.none_or, List.find?_cons_of_pos]
  simp [Record.drains, owed, shut]

/-- The record of a number changed in place. -/
theorem map_own {d before after : List Record} {r : Record} (split : d = before ++ r :: after) (distinct : (d.map (·.number)).Nodup)
    (f : Record → Record) : d.map (fun q => if q.number = r.number then f q else q) = before ++ f r :: after := by
  rw [split, List.map_append, List.map_cons, List.nodup_append] at distinct
  obtain ⟨_, rest, apart⟩ := distinct
  rw [split, List.map_append, List.map_cons, if_pos rfl]
  congr 2
  · refine (List.map_congr_left fun q inside => if_neg fun same => ?_).trans (List.map_id _)
    exact apart _ (List.mem_map_of_mem inside) _ List.mem_cons_self same
  · refine (List.map_congr_left fun q inside => if_neg fun same => ?_).trans (List.map_id _)
    exact (List.nodup_cons.mp rest).1 (List.mem_map.mpr ⟨q, inside, same⟩)

theorem drainReady_iff (s : State) : drainReady s = true ↔ (s.calls.autoDrain = true ∨ s.calls.drainReq = true) ∧ s.calls.state = .idle
    ∧ s.printer.engine = .idle ∧ s.ch1 = none ∧ s.calls.drain = none := by
  simp only [drainReady, Bool.and_eq_true, Bool.or_eq_true, beq_iff_eq, Option.isNone_iff_eq_none, and_assoc]

theorem exec_drainStart {s : State} {r : Record} (first : s.store.directory.find? Record.drains = some r) (ready : drainReady s = true) :
    exec .drainStart s = .next (kick (told .ch1 (startChan .ch1 r.number 0 .justPrinter .now .sequencer
      (s.setCalls { s.calls with drain := some r.number })))) := by
  change execDrainStart s = _
  rw [execDrainStart, first]
  exact if_pos ready

/-- CH1 reports to the drain where no automatic send and no collection is at work. -/
theorem told_drain {s : State} (auto : s.calls.auto = none) (coll : s.calls.coll = none) {n : Nat} (drain : s.calls.drain = some n)
    (rep : Report) : told .ch1 (s, some rep) = drainReport n rep s := by
  change seqReport .ch1 rep s = _
  rw [seqReport, auto, coll, drain]
  rfl

/-- The drain ends with its message done (R180). -/
theorem drainReport_done (n : Nat) (s : State) : drainReport n .done s = post (.owedPrinted n) ({ s with
    store := { s.store with directory := s.store.directory.map fun q => if q.number = n then { q with printOwed := false } else q }
    calls := { s.calls with drain := none, drainReq := s.calls.drainReq && !(s.calls.state == .idle
      && (s.store.directory.map fun q => if q.number = n then { q with printOwed := false } else q).all
        fun q => !q.printOwed || q.state == .opened) } } : State) :=
  drainTest_eq _

theorem drainReport_stopped (n : Nat) (s : State) : drainReport n .stopped s = s.setCalls { s.calls with
    drain := none, drainReq := s.calls.drainReq && !(s.calls.state == .idle
      && s.store.directory.all fun q => !q.printOwed || q.state == .opened) } :=
  drainTest_eq _

theorem map_changed_twice (d : List Record) (n : Nat) {f g : Record → Record} (same : ∀ q, (f q).number = q.number) :
    (d.map fun q => if q.number = n then f q else q).map (fun q => if q.number = n then g q else q)
      = d.map fun q => if q.number = n then g (f q) else q := by
  rw [List.map_map]
  refine List.map_congr_left fun q _ => ?_
  by_cases own : q.number = n <;> simp [own, same]

/-- A channel's record is read for an answer before its report is heard (R122, R120). -/
theorem exec_stopHeard {p : Port} {channel : Byte} {s u : State} {c : Chan} {rep : Option Report} (names : chanOf channel = some c)
    (stops : stopChan c s = (u, rep)) :
    exec (.stopChannel p channel) s = .next (kick ((told c (u, rep)).answer p ⟨0x43, .done, none, chanBytes c u⟩)) := by
  change execStopChannel p channel s = _
  rw [execStopChannel, names]
  dsimp only
  rw [stops]
  rfl

theorem exec_holdHeard {p : Port} {channel : Byte} {s u : State} {c : Chan} {rep : Option Report} (names : chanOf channel = some c)
    (busy : s.chan c ≠ none) (holds : holdChan c .command s = (u, rep)) :
    exec (.hold p channel) s = .next (kick ((told c (u, rep)).answer p ⟨0x41, .done, none, chanBytes c u⟩)) := by
  change execHold p channel s = _
  rw [execHold, names]
  dsimp only
  rw [if_neg (by rwa [Option.isNone_iff_eq_none]), holds]
  rfl

theorem reportOf_sequencer {w : ChanWork} (own : w.starter = .sequencer) (rep : Report) : reportOf w rep = some rep := if_pos own

/-- Settles O42. -/
theorem owedMarksAreServed : Obligations.OwedMarksAreServed := by
  refine ⟨fun p message flags s absent => ?_, fun p message flags s r found => ?_, fun p s => ⟨_, rfl, ?_⟩, ?_, ?_, ?_⟩
  · change execClearOwed p message flags s = _
    rw [execClearOwed, show findMsg message.toNat s = none from Store.find_absent absent]
    rfl
  · have ran : exec (.clearOwed p message flags) s = execClearOwed p message flags s := rfl
    rw [execClearOwed, show findMsg message.toNat s = some r from found] at ran
    refine ⟨fun ⟨not4, not8, not12⟩ => ran.trans (if_neg fun h => ?_), fun named distinct => ?_⟩
    · rcases (owedFlags_iff flags).mp h with is4 | is8 | is12
      · exact not4 is4
      · exact not8 is8
      · exact not12 is12
    · intro print punch d
      refine ran.trans ((if_pos ((owedFlags_iff flags).mpr named)).trans ?_)
      obtain ⟨at2, at3⟩ := owed_left flags named
      have replaced : updateMsg message.toNat (fun _ => { r with printOwed := print, punchOwed := punch }) s
          = s.setStore { s.store with directory := d } :=
        congrArg (fun e => s.setStore { s.store with directory := e })
          (map_found distinct found fun q => { q with printOwed := print, punchOwed := punch })
      dsimp only
      rw [at2, at3, replaced, drainTest_eq]
      rfl
  · change execPrintOwed p s = _
    rw [execPrintOwed, drains_count]
    generalize List.countP _ _ = n
    dsimp only
    by_cases none_owed : n = 0
    · subst none_owed
      rw [if_pos rfl, decide_eq_false (Nat.lt_irrefl 0), Bool.or_false]
      rfl
    · rw [if_neg none_owed, decide_eq_true (Nat.pos_of_ne_zero none_owed), Bool.or_true]
      rfl
  · intro s before after r b bs split passed owed shut distinct wanted idle free engine ch1 chain fill whole clean
    have ran := exec_drainStart (find_first split passed owed shut) ((drainReady_iff s).mpr ⟨wanted, idle, engine, ch1, free⟩)
    have found : s.store.find r.number = some r :=
      Store.find_own distinct (split ▸ List.mem_append_right _ List.mem_cons_self)
    obtain ⟨w, at_w⟩ : ∃ w : ChanWork, w = ⟨.pending, r.number, 0, .justPrinter, .now, true, .sequencer, none⟩ := ⟨_, rfl⟩
    obtain ⟨v, at_v⟩ : ∃ v : State, v = { s with
      calls := { s.calls with drain := some r.number }
      store := { s.store with directory := before ++ { r with readers := r.readers + 1 } :: after }
      ch1 := some w } := ⟨_, rfl⟩
    have begun : startChan .ch1 r.number 0 .justPrinter .now .sequencer (s.setCalls { s.calls with drain := some r.number })
        = proceedChan .ch1 v := by
      rw [at_v, at_w, ← map_own split distinct fun q => { q with readers := q.readers + 1 }]
      rfl
    have started : v.store.find w.message = some { r with readers := r.readers + 1 } := by
      rw [at_v, at_w, ← map_own split distinct fun q => { q with readers := q.readers + 1 }]
      exact Store.find_update found fun _ => rfl
    have reads : v.store.wrongOf b.block = [] ∧ v.store.blockBytes b.block = s.store.blockBytes b.block := by
      rw [at_v]
      exact ⟨clean, rfl⟩
    have bare : w.copy = none := by rw [at_w]
    have runs := proceedChan_clean (c := .ch1) (show v.chan .ch1 = some w by rw [at_v]; rfl) started (before := []) chain (Nat.zero_le _)
      (show w.position < 0 + b.fill by rw [at_w, Nat.zero_add]; exact fill)
      (.inr ⟨fun held => by rw [bare]; exact (Option.some_ne_none _).symm, whole, reads.1, rfl⟩)
    have open_sink : ¬ sinksPermanent w.sinks v = true := by
      rw [at_w, at_v, sinksPermanent_iff]
      rintro (⟨_, fault⟩ | ⟨named, _⟩)
      · exact PrEngine.noConfusion (engine.symm.trans fault)
      · exact Bool.false_ne_true named
    dsimp only at runs
    rw [if_neg open_sink, reads.2] at runs
    rw [begun, runs, at_w, at_v] at ran
    exact leaves_of_kick ran
  · intro s r inside owed shut stays
    change execDrainStart s = _
    obtain ⟨q, first⟩ := Option.isSome_iff_exists.mp (List.find?_isSome.mpr ⟨r, inside, show Record.drains r = true by
      simp [Record.drains, owed, shut]⟩)
    rw [execDrainStart, first]
    refine if_neg fun ready => ?_
    obtain ⟨wanted, idle, engine, ch1, free⟩ := (drainReady_iff s).mp ready
    rcases stays with ⟨auto, req⟩ | other | other | other | other
    · rw [auto, req] at wanted
      exact wanted.elim Bool.noConfusion Bool.noConfusion
    · exact other idle
    · exact other free
    · exact other engine
    · exact other ch1
  · intro s w at_ch1 own auto coll drain changed out rest
    refine ⟨?_, fun p => ⟨?_, ?_⟩⟩
    · intro r before b off copied y running sinks found closed chain position inside copy at_off takes d
      have silent : w.sinks.transmitter = false := by rw [sinks]
      have ready : sinksReady w.sinks s = true := (sinksReady_iff _ s).mpr ⟨fun _ => takes, fun named => by
        rw [sinks] at named
        cases named⟩
      have ran := exec_channelDelivery (c := .ch1) at_ch1 running silent ready
        (chanSymbol_copied found chain position (by omega) copy at_off)
      obtain ⟨given, at_given⟩ : ∃ given : State, given = s.setPrinter (s.printer.accept y) := ⟨_, rfl⟩
      have taken : sinksTake w.sinks y s = given := by
        rw [sinksTake_eq, sinks, at_given]
        rfl
      have goes := proceedChan_ends (c := .ch1) (s := given.setChan .ch1 (some { w with position := w.position + 1 }))
        (w := { w with position := w.position + 1 }) (r := r) rfl (by rw [at_given]; exact found)
        (locate_past chain (n := w.position + 1) (by omega) (fun k none => absurd none List.not_mem_nil)) closed
      rw [reportOf_sequencer (by exact own), chanToIdle_setChan .ch1 (w := w) (v := { w with position := w.position + 1 }) rfl,
        chanToIdle_eq] at goes
      rw [taken, goes, told_drain (by rw [at_given]; exact auto) (by rw [at_given]; exact coll) (n := w.message) (by rw [at_given]; exact drain),
        drainReport_done, at_given] at ran
      have twice : _ = d := map_changed_twice s.store.directory w.message (f := fun q => { q with readers := q.readers - 1 })
        (g := fun q => { q with printOwed := false }) fun _ => rfl
      refine leaves_of_kicked ran ?_
      rw [← twice]
      rfl
    · intro d
      have stops : stopChan .ch1 s = (post (.channelStopped .ch1 w.message w.position) (chanToIdle .ch1 w s), some .stopped) := by
        rw [stopChan, show s.chan .ch1 = some w from at_ch1, ← reportOf_sequencer own]
      rw [chanToIdle_eq] at stops
      refine ⟨_, rfl, leaves_of_kicked (exec_stopHeard rfl stops) ?_⟩
      rw [told_drain (by exact auto) (by exact coll) (n := w.message) (by exact drain), drainReport_stopped]
      rfl
    · intro unheld
      obtain ⟨rep, holds, quiet⟩ := holdChan_eq .ch1 .command s
      have ran := exec_holdHeard (p := p) (channel := 1) rfl (fun idle => Option.some_ne_none _ (at_ch1.symm.trans idle)) holds
      rw [told_held_quiet (c := .ch1) (quiet.imp_right fun ⟨v, _, rep⟩ => ⟨v, rep, .inr (by rw [State.heldFor_calls]; exact ⟨auto, coll⟩)⟩),
        State.heldFor_works (c := .ch1) at_ch1 unheld] at ran
      exact ⟨_, rfl, leaves_of_kicked ran rfl⟩

end Sys2Proof.Machine
end

section
-- One proof is elaborated at a time: the threads of many at once do not fit the memory a check allows.
set_option Elab.async false

/-! SUPPORT. Appending (R88, R89): what one symbol does to the store, and a run of symbols, while no channel reads the message; and APPEND
TEXT (R94). -/

namespace Sys2Proof.Machine

/-! ## One block written, one chain changed -/

theorem Store.blockBytes_other {t u : Store} {written : List Nat} (w : t.Rewritten u written) {k : Nat} (other : k ∉ written) :
    u.blockBytes k = t.blockBytes k := by
  refine List.map_congr_left fun i small => w.2.2 _ ?_
  have inside : i < 32 := List.mem_range.mp small
  rwa [Config.blockSize, Nat.mul_add_div (by decide), Nat.div_eq_of_lt inside, Nat.add_zero]

theorem Store.blockText_other {t u : Store} {written : List Nat} (w : t.Rewritten u written) {b : ChainBlock}
    (other : b.block ∉ written) : u.blockText b = t.blockText b := by
  rw [Store.blockText, Store.blockText, Store.blockBytes_other w other]

/-- Block k written with some bytes, and chain put in place of message n's (R80, R88). -/
def Store.joined (t : Store) (n k : Nat) (bytes : List Byte) (chain : List ChainBlock) (free : List Nat) : Store :=
  { t.writeBlock k bytes with
    free := free, directory := t.directory.map fun q => if q.number = n then { q with chain := chain } else q }

theorem Store.joined_rewritten {t : Store} (w : Memory.wf t.memory = true) {n k : Nat} {bytes : List Byte} (short : bytes.length ≤ 32)
    (chain : List ChainBlock) (free : List Nat) : t.Rewritten (t.joined n k bytes chain free) [k] := by
  refine ⟨fun b own => ?_, fun b other => ?_, fun a outside => (writeBlock_spec t k bytes w short).2.2 a ?_⟩
  · exact (t.wrongOf_writeBlock k bytes b).trans (if_pos (List.mem_singleton.mp own))
  · exact (t.wrongOf_writeBlock k bytes b).trans (if_neg fun same => other (List.mem_singleton.mpr same))
  · have apart : a / 32 ≠ k := fun same => outside (List.mem_singleton.mpr same)
    rw [Config.blockSize]
    omega

theorem Store.joined_bytes {t : Store} (w : Memory.wf t.memory = true) {n k : Nat} {bytes : List Byte} (short : bytes.length ≤ 32)
    (chain : List ChainBlock) (free : List Nat) : ((t.joined n k bytes chain free).blockBytes k).take bytes.length = bytes := by
  refine List.ext_getElem? fun i => ?_
  rcases Nat.lt_or_ge i bytes.length with inside | past
  · have written := (writeBlock_spec t k bytes w short).2.1 i inside
    rw [List.getElem?_take_of_lt inside, Store.blockBytes, Memory.readRun, List.getElem?_map,
      List.getElem?_range (show i < Config.blockSize from lt_of_lt_of_le inside short), List.getElem?_eq_getElem inside]
    exact congrArg some written
  · rw [List.getElem?_take_eq_none past, List.getElem?_eq_none past]

theorem Store.find_chain {t : Store} {n : Nat} {r : Record} (found : t.find n = some r) (chain : List ChainBlock) {u : Store}
    (directory : u.directory = t.directory.map fun q => if q.number = n then { q with chain := chain } else q) :
    u.find n = some { r with chain := chain } := by
  have updated := Store.find_update found (f := fun q => { q with chain := chain }) fun _ => rfl
  rw [Store.find, directory]
  exact updated

theorem Store.find_other {t u : Store} {n : Nat} {f : Record → Record} (same : ∀ q, (f q).number = q.number)
    (directory : u.directory = t.directory.map fun q => if q.number = n then f q else q) {m : Nat} (other : m ≠ n) :
    u.find m = t.find m := by
  rw [Store.find, Store.find, directory]
  generalize t.directory = d
  induction d with
  | nil => rfl
  | cons q qs ih =>
    rw [List.map_cons, List.find?_cons, List.find?_cons]
    by_cases own : q.number = n
    · have miss : (q.number == m) = false := beq_false_of_ne fun here => other (here.symm.trans own)
      rw [if_pos own, ih, same, miss]
    · rw [if_neg own, ih]

theorem map_chain_found {t : Store} (distinct : (t.directory.map (·.number)).Nodup) {n : Nat} {r : Record} (found : t.find n = some r)
    (g : List ChainBlock → List ChainBlock) : t.directory.map (fun q => if q.number = n then { q with chain := g q.chain } else q)
      = t.directory.map (fun q => if q.number = n then { q with chain := g r.chain } else q) :=
  (map_found distinct found fun q => { q with chain := g q.chain }).symm.trans
    (map_found distinct found fun q => { q with chain := g r.chain })

/-! ## Text joined to a message -/

/-- u is t with bytes joined to the text of message n, whose record r has a new chain now, and as many blocks as told taken from the head of
the free queue (R86, R88). -/
structure Store.Joins (t : Store) (n : Nat) (r : Record) (bytes : List Byte) (u : Store) (chain : List ChainBlock) (taken : Nat) :
    Prop where
  sound : u.Sound
  clean : u.Clean { r with chain := chain }
  text : u.textOf n = t.textOf n ++ bytes
  others : ∀ m, m ≠ n → u.textOf m = t.textOf m
  directory : u.directory = t.directory.map fun q => if q.number = n then { q with chain := chain } else q
  free : u.free = t.free.drop taken
  blocks : chain.map (·.block) = r.chain.map (·.block) ++ t.free.take taken
  last : ∀ b ∈ ({ r with chain := chain } : Record).lastOpen, b ∈ r.lastOpen ++ t.free.take taken
  rewritten : t.Rewritten u (r.lastOpen ++ t.free.take taken)
  same : u = { t with memory := u.memory, wrongBits := u.wrongBits, free := u.free, directory := u.directory }

theorem Store.Joins.found {t u : Store} {n : Nat} {r : Record} {bytes : List Byte} {chain : List ChainBlock} {taken : Nat}
    (j : t.Joins n r bytes u chain taken) (found : t.find n = some r) : u.find n = some { r with chain := chain } :=
  Store.find_chain found chain j.directory

theorem Record.lastOpen_mem {r : Record} {k : Nat} (h : k ∈ r.lastOpen) : ∃ b ∈ r.chain, b.block = k ∧ b.damaged = false := by
  unfold Record.lastOpen at h
  split at h
  · next b last =>
    split_ifs at h with opened
    · exact ⟨b, List.mem_of_getLast? last, (List.mem_singleton.mp h).symm, opened.1⟩
    · cases h
  · cases h

/-- Nothing joined. -/
theorem Store.Joins.refl {t : Store} (w : t.Sound) {n : Nat} {r : Record} (found : t.find n = some r) (clean : t.Clean r) :
    t.Joins n r [] t r.chain 0 where
  sound := w
  clean := clean
  text := (List.append_nil _).symm
  others := fun _ _ => rfl
  directory := by
    have kept := map_chain_found w.distinct found id
    refine Eq.trans ?_ kept
    refine ((List.map_congr_left fun q _ => ?_).trans (List.map_id _)).symm
    exact ite_self q
  free := rfl
  blocks := (List.append_nil _).symm
  last := fun b h => List.mem_append_left _ h
  rewritten := by
    rw [List.take_zero, List.append_nil]
    refine ⟨fun b inside => ?_, fun _ _ => rfl, fun _ _ => rfl⟩
    obtain ⟨c, in_chain, rfl, whole⟩ := Record.lastOpen_mem inside
    exact clean c in_chain whole
  same := rfl

theorem Store.Joins.trans {t u v : Store} {n : Nat} {r : Record} {xs ys : List Byte} {chain more : List ChainBlock} {i j : Nat}
    (a : t.Joins n r xs u chain i) (b : u.Joins n { r with chain := chain } ys v more j) : t.Joins n r (xs ++ ys) v more (i + j) where
  sound := b.sound
  clean := b.clean
  text := by rw [b.text, a.text, List.append_assoc]
  others := fun m other => (b.others m other).trans (a.others m other)
  directory := by
    rw [b.directory, a.directory]
    exact map_changed_twice t.directory n (f := fun q => { q with chain := chain }) (g := fun q => { q with chain := more }) fun _ => rfl
  free := by rw [b.free, a.free, List.drop_drop]
  blocks := by rw [b.blocks, a.blocks, a.free, List.append_assoc, List.take_add]
  last := fun k h => by
    rw [List.take_add, ← List.append_assoc]
    rcases List.mem_append.mp (b.last k h) with own | fresh
    · exact List.mem_append_left _ (a.last k own)
    · exact List.mem_append_right _ (a.free ▸ fresh)
  rewritten := by
    have grows {k : Nat} (h : k ∈ ({ r with chain := chain } : Record).lastOpen ++ u.free.take j) :
        k ∈ r.lastOpen ++ t.free.take (i + j) := by
      rw [List.take_add, ← List.append_assoc]
      rcases List.mem_append.mp h with own | fresh
      · exact List.mem_append_left _ (a.last k own)
      · exact List.mem_append_right _ (a.free ▸ fresh)
    have keeps {k : Nat} (h : k ∈ r.lastOpen ++ t.free.take i) : k ∈ r.lastOpen ++ t.free.take (i + j) := by
      rw [List.take_add, ← List.append_assoc]
      exact List.mem_append_left _ h
    refine ⟨fun k inside => ?_, fun k outside => ?_, fun m outside => ?_⟩
    · by_cases later : k ∈ ({ r with chain := chain } : Record).lastOpen ++ u.free.take j
      · exact b.rewritten.1 k later
      · refine (b.rewritten.2.1 k later).trans (a.rewritten.1 k ?_)
        rw [List.take_add, ← List.append_assoc] at inside
        rcases List.mem_append.mp inside with first | fresh
        · exact first
        · exact absurd (List.mem_append_right _ (a.free ▸ fresh)) later
    · exact (b.rewritten.2.1 k (mt grows outside)).trans (a.rewritten.2.1 k (mt keeps outside))
    · exact (b.rewritten.2.2 m (mt grows outside)).trans (a.rewritten.2.2 m (mt keeps outside))
  same := by
    rw [b.same, a.same]

/-- One byte joined to what the last block of the chain holds, or to a fresh block that holds nothing yet. -/
theorem Store.joined_joins {t : Store} (w : t.Sound) {n : Nat} {r : Record} (found : t.find n = some r) (clean : t.Clean r)
    {before : List ChainBlock} {k : ChainBlock} {old : List Byte} {y : Byte} {free : List Nat} {taken : Nat}
    (text : t.textOf n = before.flatMap t.blockText ++ old) (kept : ∀ c ∈ before, c ∈ r.chain ∧ c.block ≠ k.block)
    (apart : ∀ q ∈ t.directory, q.number ≠ n → ∀ c ∈ q.chain, c.block ≠ k.block) (whole : k.damaged = false)
    (fill : k.fill = old.length + 1) (short : old.length < 32) (written : r.lastOpen ++ t.free.take taken = [k.block])
    (rest : free = t.free.drop taken) (blocks : (before ++ [k]).map (·.block) = r.chain.map (·.block) ++ t.free.take taken)
    (sound : (t.joined n k.block (old ++ [y]) (before ++ [k]) free).Sound) :
    t.Joins n r [y] (t.joined n k.block (old ++ [y]) (before ++ [k]) free) (before ++ [k]) taken := by
  have length : (old ++ [y]).length = k.fill := by rw [fill, List.length_append, List.length_singleton]
  have fits : (old ++ [y]).length ≤ 32 := by rw [length, fill]; exact short
  have rewritten := Store.joined_rewritten w.canonical (n := n) (k := k.block) fits (before ++ [k]) free
  have bytes := Store.joined_bytes w.canonical (n := n) (k := k.block) fits (before ++ [k]) free
  have found' : (t.joined n k.block (old ++ [y]) (before ++ [k]) free).find n = some { r with chain := before ++ [k] } :=
    Store.find_chain found _ rfl
  have same_text {c : ChainBlock} (other : c.block ≠ k.block) := Store.blockText_other rewritten (b := c) fun h => other (List.mem_singleton.mp h)
  refine ⟨sound, ?_, ?_, ?_, rfl, rest, blocks, ?_, written ▸ rewritten, rfl⟩
  · intro c inside undamaged
    rcases List.mem_append.mp inside with earlier | last
    · rw [rewritten.2.1 _ fun h => (kept c earlier).2 (List.mem_singleton.mp h)]
      exact clean c (kept c earlier).1 undamaged
    · exact rewritten.1 _ (by rw [List.mem_singleton.mp last]; exact List.mem_singleton_self _)
  · have own : (t.joined n k.block (old ++ [y]) (before ++ [k]) free).blockText k = old ++ [y] := by
      rw [Store.blockText, if_neg (by rw [whole]; exact Bool.false_ne_true), ← length]
      exact bytes
    rw [text, Store.textOf, found']
    dsimp only
    rw [List.flatMap_append, List.flatMap_singleton, own, List.append_assoc]
    exact congrArg (· ++ _) (List.flatMap_congr fun c inside => same_text (kept c inside).2)
  · intro m other
    rw [Store.textOf, Store.textOf, Store.find_other (t := t) (n := n) (f := fun q => { q with chain := before ++ [k] }) (fun _ => rfl) rfl other]
    cases there : t.find m with
    | none => rfl
    | some q =>
      obtain ⟨q_inside, number⟩ := Store.find_mem there
      exact List.flatMap_congr fun c inside => same_text (apart q q_inside (number ▸ other) c inside)
  · intro b inside
    rw [written]
    unfold Record.lastOpen at inside
    rw [List.getLast?_concat] at inside
    dsimp only at inside
    split_ifs at inside
    · exact inside
    · cases inside

/-! ## One symbol appended (R88) -/

/-- No channel is at work. -/
def State.NoChannel (s : State) : Prop := s.ch0 = none ∧ s.ch1 = none

theorem openLast_split {chain before : List ChainBlock} {b : ChainBlock} (split : chain = before ++ [b]) :
    openLast chain = if b.damaged = false ∧ b.fill < 32 then some b else none := by
  rw [openLast, split, List.getLast?_concat]

theorem lastOpen_eq (r : Record) : r.lastOpen = match openLast r.chain with | some b => [b.block] | none => [] := by
  unfold Record.lastOpen openLast
  cases r.chain.getLast? with
  | none => rfl
  | some b =>
    dsimp only
    by_cases opened : b.damaged = false ∧ b.fill < 32
    · rw [if_pos opened, show (if b.damaged = false ∧ b.fill < Config.blockSize then some b else none) = some b from if_pos opened]
    · rw [if_neg opened, show (if b.damaged = false ∧ b.fill < Config.blockSize then some b else none) = none from if_neg opened]

theorem modify_last {α : Type} (before : List α) (b : α) (f : α → α) : (before ++ [b]).modify before.length f = before ++ [f b] := by
  induction before with
  | nil => rfl
  | cons a as ih => exact congrArg (a :: ·) ih

theorem Store.Sound.chain_nodup {t : Store} (w : t.Sound) {r : Record} (inside : r ∈ t.directory) : (r.chain.map (·.block)).Nodup :=
  (List.nodup_flatMap.mp w.blocks_nodup).1 r inside

theorem Store.Sound.block_own {t : Store} (w : t.Sound) {q r : Record} (hq : q ∈ t.directory) (hr : r ∈ t.directory) {k l : ChainBlock}
    (hk : k ∈ q.chain) (hl : l ∈ r.chain) (same : k.block = l.block) : q = r := by
  obtain ⟨i, at_i⟩ := List.getElem?_of_mem hk
  obtain ⟨j, at_j⟩ := List.getElem?_of_mem hl
  exact (w.block_unique hq hr at_i at_j same).1

theorem Store.Sound.free_apart {t : Store} (w : t.Sound) {b : Nat} (free : b ∈ t.free) {q : Record} (hq : q ∈ t.directory)
    {c : ChainBlock} (hc : c ∈ q.chain) : c.block ≠ b := by
  have nodup := w.blocks.nodup_iff.mpr List.nodup_range
  rw [List.append_assoc, List.nodup_append] at nodup
  exact (nodup.2.2 b free c.block (List.mem_append_right _ (List.mem_flatMap.mpr ⟨q, hq, List.mem_map_of_mem hc⟩))).symm

theorem updateMsg_joined (s : State) {n : Nat} (k : Nat) (bytes : List Byte) (free : List Nat) {f : Record → Record}
    {chain : List ChainBlock} (chains : s.store.directory.map (fun q => if q.number = n then f q else q)
      = s.store.directory.map fun q => if q.number = n then { q with chain := chain } else q) :
    updateMsg n f (s.setStore (({ s.store with free := free } : Store).writeBlock k bytes))
      = s.setStore (s.store.joined n k bytes chain free) := by
  rw [Store.joined, ← chains]
  rfl

/-- A symbol joins the last block (R88). -/
theorem appendSymbol_fills {s : State} (idle : s.NoChannel) {n : Nat} {r : Record} (w : s.store.Sound)
    (found : s.store.find n = some r) (clean : s.store.Clean r) {before : List ChainBlock} {b : ChainBlock}
    (split : r.chain = before ++ [b]) (whole : b.damaged = false) (room : b.fill < 32) (y : Symbol) :
    ∃ u, appendSymbol n y s = (s.setStore u, true)
      ∧ s.store.Joins n r [y.toByte] u (before ++ [{ b with fill := b.fill + 1 }]) 0 := by
  have inside := (Store.find_mem found).1
  have number := (Store.find_mem found).2
  have last : openLast r.chain = some b := (openLast_split split).trans (if_pos ⟨whole, room⟩)
  have index : r.chain.length - 1 = before.length := by rw [split, List.length_append]; rfl
  have in_chain : b ∈ r.chain := by simp [split]
  have chains := map_chain_found w.distinct found fun chain => chain.modify before.length fun k => { k with fill := k.fill + 1 }
  rw [split, modify_last] at chains
  have stores := updateMsg_joined s b.block ((s.store.blockBytes b.block).take b.fill ++ [y.toByte]) s.store.free chains
  have ran : appendSymbol n y s = (s.setStore (s.store.joined n b.block ((s.store.blockBytes b.block).take b.fill ++ [y.toByte])
      (before ++ [{ b with fill := b.fill + 1 }]) s.store.free), true) := by
    rw [appendSymbol, show findMsg n s = some r from found]
    dsimp only
    rw [last, index]
    dsimp only
    rw [readBlock_clean .append none found (getElem?_split split) whole (clean b in_chain whole)]
    dsimp only
    rw [if_neg Bool.false_ne_true, stores, blockChanged_idle, wake_idle]
    all_goals first | exact idle.1 | exact idle.2
  have sound := (Moves.ofAppend n y s).sound w
  rw [ran] at sound
  have held : ((s.store.blockBytes b.block).take b.fill).length = b.fill := by
    rw [List.length_take, blockBytes_length]
    exact Nat.min_eq_left room.le
  refine ⟨_, ran, Store.joined_joins w found clean (k := { b with fill := b.fill + 1 }) ?_ (fun c earlier => ?_) (fun q hq other c hc same => ?_)
    whole (by rw [held]) (held.trans_lt room) ?_ rfl ?_ sound⟩
  · rw [Store.textOf, found]
    dsimp only
    rw [split, List.flatMap_append, List.flatMap_singleton, Store.blockText, if_neg (by rw [whole]; exact Bool.false_ne_true)]
  · refine ⟨by simp [split, earlier], ?_⟩
    have nodup := w.chain_nodup inside
    rw [split, List.map_append, List.nodup_append] at nodup
    exact nodup.2.2 _ (List.mem_map_of_mem earlier) _ List.mem_cons_self
  · exact other (w.block_own hq inside hc in_chain same ▸ number)
  · rw [lastOpen_eq, last]
    rfl
  · rw [split, List.take_zero, List.append_nil, List.map_append, List.map_append]
    rfl

/-- A symbol begins a block of the free queue (R88, R89). -/
theorem appendSymbol_begins {s : State} (idle : s.NoChannel) {n : Nat} {r : Record} (w : s.store.Sound)
    (found : s.store.find n = some r) (clean : s.store.Clean r) (needs : openLast r.chain = none)
    (allowed : s.store.blockAllowed r.kind = true) {b : Nat} {rest : List Nat} (free : s.store.free = b :: rest) (y : Symbol) :
    ∃ u, appendSymbol n y s = (s.setStore u, true) ∧ s.store.Joins n r [y.toByte] u (r.chain ++ [⟨b, 1, false⟩]) 1 := by
  have inside := (Store.find_mem found).1
  have b_free : b ∈ s.store.free := by rw [free]; exact List.mem_cons_self
  have ran : appendSymbol n y s = (s.setStore (s.store.joined n b [y.toByte] (r.chain ++ [⟨b, 1, false⟩]) rest), true) := by
    rw [appendSymbol, show findMsg n s = some r from found]
    dsimp only
    rw [needs]
    dsimp only
    rw [appendNew, show findMsg n s = some r from found]
    dsimp only
    rw [if_pos allowed, free]
    dsimp only
    rw [updateMsg_joined s b [y.toByte] rest (map_chain_found w.distinct found fun chain => chain ++ [(⟨b, 1, false⟩ : ChainBlock)])]
    generalize s.store.joined n b [y.toByte] (r.chain ++ [⟨b, 1, false⟩]) rest = u
    rw [wake_idle (s := s.setStore u) idle.1 idle.2]
  have sound := (Moves.ofAppend n y s).sound w
  rw [ran] at sound
  refine ⟨_, ran, Store.joined_joins w found clean (k := ⟨b, 1, false⟩) (old := []) ?_ (fun c hc => ⟨hc, w.free_apart b_free inside hc⟩)
    (fun q hq _ c hc => w.free_apart b_free hq hc) rfl rfl (by decide) ?_ (by rw [free]; rfl) ?_ sound⟩
  · rw [Store.textOf, found, List.append_nil]
  · rw [lastOpen_eq, needs, free]
    rfl
  · rw [free, List.map_append]
    rfl

theorem appendSymbol_fails {s : State} {n : Nat} {r : Record} (found : s.store.find n = some r) (needs : openLast r.chain = none)
    (refused : s.store.blockAllowed r.kind = false ∨ s.store.free = []) (y : Symbol) : appendSymbol n y s = (s, false) := by
  rw [appendSymbol, show findMsg n s = some r from found]
  dsimp only
  rw [needs]
  dsimp only
  rw [appendNew, show findMsg n s = some r from found]
  dsimp only
  rcases refused with not | empty
  · rw [if_neg (by rw [not]; exact Bool.false_ne_true)]
  · rw [empty]
    exact ite_self _

/-! ## A run of symbols (R88, R94) -/

theorem openLast_some {chain : List ChainBlock} {b : ChainBlock} (h : openLast chain = some b) :
    ∃ before, chain = before ++ [b] ∧ b.damaged = false ∧ b.fill < 32 := by
  rcases List.eq_nil_or_concat' chain with rfl | ⟨before, k, split⟩
  · cases h
  · rw [openLast_split split] at h
    split_ifs at h with opened
    cases h
    exact ⟨before, split, opened⟩

theorem appendAll_append {n : Nat} {xs ys : List Symbol} {s u : State} (first : appendAll n xs s = (u, xs.length)) :
    appendAll n (xs ++ ys) s = ((appendAll n ys u).1, xs.length + (appendAll n ys u).2) := by
  induction xs generalizing s with
  | nil =>
    cases first
    exact Prod.ext rfl (Nat.zero_add _).symm
  | cons x xs ih =>
    rw [appendAll] at first
    rw [List.cons_append, appendAll]
    dsimp only at first ⊢
    split_ifs at first ⊢
    · obtain ⟨state, count⟩ := Prod.mk.injEq .. ▸ first
      rw [ih (Prod.ext state (Nat.succ_injective count))]
      exact Prod.ext rfl (by rw [List.length_cons]; omega)
    · exact absurd (congrArg Prod.snd first) (Nat.succ_ne_zero _).symm

theorem appendAll_fails {s : State} {n : Nat} {r : Record} (found : s.store.find n = some r) (needs : openLast r.chain = none)
    (refused : s.store.blockAllowed r.kind = false ∨ s.store.free = []) (ys : List Symbol) : appendAll n ys s = (s, 0) := by
  cases ys with
  | nil => rfl
  | cons y ys =>
    rw [appendAll, appendSymbol_fails found needs refused]
    rfl

/-- Symbols that the last block takes whole. -/
theorem appendAll_fills {n : Nat} {ys : List Symbol} : ∀ {s : State} (_ : s.NoChannel) {r : Record} (_ : s.store.Sound)
    (_ : s.store.find n = some r) (_ : s.store.Clean r) {before : List ChainBlock} {b : ChainBlock} (_ : r.chain = before ++ [b])
    (_ : b.damaged = false) (_ : b.fill + ys.length ≤ 32),
    ∃ u, appendAll n ys s = (s.setStore u, ys.length)
      ∧ s.store.Joins n r (ys.map Symbol.toByte) u (before ++ [{ b with fill := b.fill + ys.length }]) 0 := by
  induction ys with
  | nil =>
    intro s _ r w found clean before b split _ _
    exact ⟨s.store, rfl, split ▸ Store.Joins.refl w found clean⟩
  | cons y ys ih =>
    intro s idle r w found clean before b split whole room
    rw [List.length_cons] at room
    obtain ⟨u, one, joins⟩ := appendSymbol_fills idle w found clean split whole (by omega) y
    obtain ⟨v, more, joined⟩ := ih (s := s.setStore u) idle joins.sound (joins.found found) joins.clean rfl whole (by dsimp only; omega)
    refine ⟨v, ?_, ?_⟩
    · rw [appendAll, one]
      dsimp only
      rw [if_pos rfl, more]
      rfl
    · have all := joins.trans joined
      rwa [Nat.add_assoc, Nat.add_comm 1] at all

/-- Symbols that begin a block of the free queue, which takes them all. -/
theorem appendAll_begins {n : Nat} {y : Symbol} {ys : List Symbol} {s : State} (idle : s.NoChannel) {r : Record} (w : s.store.Sound)
    (found : s.store.find n = some r) (clean : s.store.Clean r) (needs : openLast r.chain = none)
    (allowed : s.store.blockAllowed r.kind = true) (some_free : s.store.free ≠ []) (room : ys.length < 32) :
    ∃ u chain, appendAll n (y :: ys) s = (s.setStore u, ys.length + 1)
      ∧ s.store.Joins n r ((y :: ys).map Symbol.toByte) u chain 1 := by
  obtain ⟨b, rest, free⟩ := List.exists_cons_of_ne_nil some_free
  obtain ⟨u, one, joins⟩ := appendSymbol_begins idle w found clean needs allowed free y
  obtain ⟨v, more, joined⟩ := appendAll_fills (ys := ys) (s := s.setStore u) idle joins.sound (joins.found found) joins.clean rfl rfl
    (by dsimp only; omega)
  refine ⟨v, _, ?_, joins.trans joined⟩
  rw [appendAll, one]
  dsimp only
  rw [if_pos rfl, more]
  rfl

/-! ## The last block is read before it is written (R81, R88) -/

theorem appendSymbol_corrected {s : State} (idle : s.NoChannel) {n : Nat} {r : Record} (found : s.store.find n = some r)
    {before : List ChainBlock} {b : ChainBlock} (split : r.chain = before ++ [b]) (whole : b.damaged = false) (room : b.fill < 32)
    {e : Nat} (wrong : s.store.wrongOf b.block = [e]) (y : Symbol) :
    appendSymbol n y s = appendSymbol n y (setFlag .storeCorrected (s.setStore (s.store.corrects b.block e))) := by
  have last : openLast r.chain = some b := (openLast_split split).trans (if_pos ⟨whole, room⟩)
  have index : r.chain.length - 1 = before.length := by rw [split, List.length_append]; rfl
  obtain ⟨state, unharmed⟩ := readBlock_corrected .append none found (getElem?_split split) whole wrong idle.1 idle.2
  generalize at_u : setFlag .storeCorrected (s.setStore (s.store.corrects b.block e)) = u at state ⊢
  have found' : findMsg n u = some r := by rw [← at_u]; exact found
  have clean : u.store.wrongOf b.block = [] := by
    rw [← at_u]
    exact (s.store.wrongOf_corrects b.block e b.block).trans (if_pos rfl)
  rw [appendSymbol, appendSymbol, show findMsg n s = some r from found, found']
  dsimp only
  rw [last, index]
  dsimp only
  rw [unharmed, state, readBlock_clean .append none found' (getElem?_split split) whole clean]

theorem appendSymbol_uncorrectable {s : State} {n : Nat} {r : Record} (found : s.store.find n = some r)
    {before : List ChainBlock} {b : ChainBlock} (split : r.chain = before ++ [b]) (whole : b.damaged = false) (room : b.fill < 32)
    {e f : Nat} (wrong : s.store.wrongOf b.block = [e, f]) (y : Symbol) :
    appendSymbol n y s = appendSymbol n y (post (.storeDamaged n before.length .append)
      (setFlag .storeUncorrectable (s.setStore (s.store.damages n before.length)))) := by
  have last : openLast r.chain = some b := (openLast_split split).trans (if_pos ⟨whole, room⟩)
  have index : r.chain.length - 1 = before.length := by rw [split, List.length_append]; rfl
  obtain ⟨state, harmed⟩ := readBlock_uncorrectable .append none found (getElem?_split split) whole wrong
  generalize at_u : post (.storeDamaged n before.length .append)
      (setFlag .storeUncorrectable (s.setStore (s.store.damages n before.length))) = u at state ⊢
  have found' : findMsg n u = some { r with
      damaged := true, chain := r.chain.modify before.length fun k => { k with damaged := true } } := by
    rw [← at_u]
    exact Store.find_update found fun _ => rfl
  have shut : openLast (r.chain.modify before.length fun k => { k with damaged := true }) = none := by
    rw [split, modify_last, openLast_split rfl]
    exact if_neg fun h => Bool.noConfusion h.1
  rw [appendSymbol, appendSymbol, show findMsg n s = some r from found, found']
  dsimp only
  rw [last, index, shut]
  dsimp only
  rw [harmed, state, if_pos rfl]

/-- A run of at most 32 symbols where the reserve gives a block. -/
theorem appendAll_fits {n : Nat} {ys : List Symbol} {s : State} (idle : s.NoChannel) {r : Record} (w : s.store.Sound)
    (found : s.store.find n = some r) (clean : s.store.Clean r) (allowed : s.store.blockAllowed r.kind = true)
    (some_free : s.store.free ≠ []) (short : ys.length ≤ 32) :
    ∃ u chain taken, taken ≤ 1 ∧ appendAll n ys s = (s.setStore u, ys.length)
      ∧ s.store.Joins n r (ys.map Symbol.toByte) u chain taken := by
  have begins {zs : List Symbol} {s : State} (idle : s.NoChannel) {r : Record} (w : s.store.Sound) (found : s.store.find n = some r)
      (clean : s.store.Clean r) (needs : openLast r.chain = none) (allowed : s.store.blockAllowed r.kind = true)
      (some_free : s.store.free ≠ []) (short : zs.length ≤ 32) : ∃ u chain taken, taken ≤ 1 ∧ appendAll n zs s = (s.setStore u, zs.length)
        ∧ s.store.Joins n r (zs.map Symbol.toByte) u chain taken := by
    cases zs with
    | nil => exact ⟨s.store, r.chain, 0, Nat.zero_le 1, rfl, Store.Joins.refl w found clean⟩
    | cons z zs =>
      obtain ⟨u, chain, ran, joins⟩ := appendAll_begins (y := z) idle w found clean needs allowed some_free short
      exact ⟨u, chain, 1, le_rfl, ran, joins⟩
  cases last : openLast r.chain with
  | none => exact begins idle w found clean last allowed some_free short
  | some b =>
    obtain ⟨before, split, whole, room⟩ := openLast_some last
    by_cases fits : b.fill + ys.length ≤ 32
    · obtain ⟨u, ran, joins⟩ := appendAll_fills idle w found clean split whole fits
      exact ⟨u, _, 0, Nat.zero_le 1, ran, joins⟩
    have first_length : (ys.take (32 - b.fill)).length = 32 - b.fill := by rw [List.length_take]; omega
    obtain ⟨u, ran, joins⟩ := appendAll_fills (ys := ys.take (32 - b.fill)) idle w found clean split whole (by omega)
    have full : openLast (before ++ [{ b with fill := b.fill + (ys.take (32 - b.fill)).length }]) = none := by
      rw [openLast_split rfl]
      exact if_neg fun h => absurd h.2 (by dsimp only; omega)
    have same_free : u.free = s.store.free := joins.free
    obtain ⟨v, chain, taken, few, more, joined⟩ := begins (zs := ys.drop (32 - b.fill)) (s := s.setStore u) idle joins.sound
      (joins.found found) joins.clean full (by
        change u.blockAllowed r.kind = true
        unfold Store.blockAllowed at allowed ⊢
        rw [same_free]
        exact allowed) (by rw [State.setStore_store, same_free]; exact some_free) (by rw [List.length_drop]; omega)
    refine ⟨v, chain, 0 + taken, by omega, ?_, ?_⟩
    · have all := appendAll_append (ys := ys.drop (32 - b.fill)) ran
      rw [List.take_append_drop, more] at all
      rw [all]
      refine Prod.ext rfl ?_
      dsimp only
      rw [List.length_drop, first_length]
      omega
    · have all := joins.trans joined
      rwa [← List.map_append, List.take_append_drop] at all

/-! ## APPEND TEXT (R94) -/

theorem blockAllowed_prepared {t : Store} (many : 16 < t.free.length) (kind : MsgKind) : t.blockAllowed kind = true := by
  cases kind with
  | received => exact decide_eq_true (Nat.lt_of_le_of_lt (Nat.zero_le _) many)
  | prepared => exact decide_eq_true many

theorem blockAllowed_few {t : Store} (few : t.free.length ≤ 16) {kind : MsgKind} (prepared : kind = .prepared) :
    t.blockAllowed kind = false := by
  rw [prepared]
  exact decide_eq_false (Nat.not_lt.mpr few)

theorem openLast_none {chain : List ChainBlock} (h : ∀ b, chain.getLast? = some b → b.damaged = true ∨ 32 ≤ b.fill) :
    openLast chain = none := by
  cases last : openLast chain with
  | none => rfl
  | some b =>
    obtain ⟨before, split, whole, room⟩ := openLast_some last
    rcases h b (by rw [split, List.getLast?_concat]) with bad | full
    · exact absurd (whole.symm.trans bad) Bool.false_ne_true
    · exact absurd room (Nat.not_lt.mpr full)

/-- APPEND TEXT taken: its symbols are appended, and the answer counts them (R94). -/
theorem exec_appendText {p : Port} {message : Half} {text : List Byte} {s : State} {r : Record} (some : 1 ≤ text.length)
    (short : text.length ≤ 32) (found : s.store.find message.toNat = .some r) (opened : r.state = .opened)
    (own : r.holder = .some (.port p)) (fine : ∀ b ∈ text, SymbolPasses b) {v : State} {count : Nat}
    (appended : appendAll message.toNat (text.map Symbol.ofByte) s = (v, count)) :
    exec (.appendText p message text) s = .next (kick (v.answer p (if count = text.length then ⟨0x31, .done, none, [byteOf count]⟩
      else ⟨0x31, .refused, .some .full, [byteOf count]⟩))) := by
  change execAppendText p message text s = _
  have fits : ¬ (text = [] ∨ 32 < text.length) := by
    rintro (empty | long)
    · rw [empty] at some
      exact absurd some (by decide)
    · omega
  rw [execAppendText, if_neg fits, show findMsg message.toNat s = .some r from found]
  dsimp only
  rw [if_neg (not_not.mpr opened), if_neg (not_not.mpr own), (checkSymbols_passes fine).1]
  dsimp only
  rw [appended, List.length_map]

/-- Two states between which APPEND TEXT makes no difference. -/
theorem exec_appendText_same {p : Port} {message : Half} {text : List Byte} {s u : State} {r q : Record} (some : 1 ≤ text.length)
    (short : text.length ≤ 32) (found : s.store.find message.toNat = .some r) (found' : u.store.find message.toNat = .some q)
    (opened : r.state = .opened) (opened' : q.state = .opened) (own : r.holder = .some (.port p)) (own' : q.holder = .some (.port p))
    (fine : ∀ b ∈ text, SymbolPasses b) (same : ∀ y, appendSymbol message.toNat y s = appendSymbol message.toNat y u) :
    exec (.appendText p message text) s = exec (.appendText p message text) u := by
  rw [exec_appendText some short found opened own fine rfl, exec_appendText some short found' opened' own' fine rfl]
  have all : appendAll message.toNat (text.map Symbol.ofByte) s = appendAll message.toNat (text.map Symbol.ofByte) u := by
    cases text with
    | nil => exact absurd some (by decide)
    | cons b bs => rw [List.map_cons, appendAll, appendAll, same]
  rw [all]

/-- Settles O38. -/
theorem textIsAppended : Obligations.TextIsAppended := by
  intro p message text s c refused least most
  have ran : exec c s = execAppendText p message text s := rfl
  have fits : ¬ (text = [] ∨ 32 < text.length) := by
    rintro (rfl | long)
    · exact absurd least (by decide)
    · omega
  rw [execAppendText, if_neg fits] at ran
  refine ⟨fun absent => ?_, fun r found => ?_⟩
  · rw [show findMsg message.toNat s = none from Store.find_absent absent] at ran
    exact ran
  rw [show findMsg message.toNat s = some r from found] at ran
  dsimp only at ran
  have bytes (fine : ∀ b ∈ text, SymbolPasses b) : (text.map Symbol.ofByte).map Symbol.toByte = text := (checkSymbols_passes fine).2
  refine ⟨fun shut => ran.trans (if_pos shut), fun opened away => ?_, fun opened own bad => ?_, ?_, ?_, ?_, ?_⟩
  · exact ran.trans ((if_neg (not_not.mpr opened)).trans (if_pos away))
  · rw [if_neg (not_not.mpr opened), if_neg (not_not.mpr own), checkSymbols_refused bad] at ran
    exact ran
  · intro opened own fine closed prepared few
    have none := appendAll_fails found (openLast_none closed) (.inl (blockAllowed_few few prepared)) (text.map Symbol.ofByte)
    refine leaves_of_kicked (exec_appendText least most found opened own fine none) ?_
    rw [if_neg (by omega)]
    rfl
  · intro b n opened own fine w clean ch0 ch1 prepared few last whole room count
    obtain ⟨before, split⟩ := List.getLast?_eq_some_iff.mp last
    have length : ((text.map Symbol.ofByte).take n).length = n := by rw [List.length_take, List.length_map]; omega
    obtain ⟨u, first, joins⟩ := appendAll_fills (ys := (text.map Symbol.ofByte).take n) ⟨ch0, ch1⟩ w found clean split whole (by omega)
    have all : appendAll message.toNat (text.map Symbol.ofByte) s = (s.setStore u, n) := by
      have both := appendAll_append (ys := (text.map Symbol.ofByte).drop n) first
      rw [List.take_append_drop, length] at both
      rcases Nat.lt_or_ge n text.length with more | none
      · have full : openLast (before ++ [{ b with fill := b.fill + ((text.map Symbol.ofByte).take n).length }]) = none := by
          rw [openLast_split rfl]
          exact if_neg fun h => absurd h.2 (by dsimp only; omega)
        have same_free : u.free = s.store.free := joins.free
        rw [both, appendAll_fails (s := s.setStore u) (joins.found found) full
          (.inl (blockAllowed_few (by rw [State.setStore_store, same_free]; exact few) prepared))]
        rfl
      · rw [both, List.drop_eq_nil_of_le (by rwa [List.length_map])]
        rfl
    rw [List.map_take, bytes fine] at joins
    have written : r.lastOpen = [b.block] := by
      rw [lastOpen_eq, openLast_split split, if_pos ⟨whole, room⟩]
    have blocks := joins.blocks
    have rewritten := joins.rewritten
    rw [List.take_zero, List.append_nil] at blocks rewritten
    refine ⟨u, _, leaves_of_kicked (exec_appendText least most found opened own fine all) rfl, joins.text, joins.others, joins.directory,
      blocks, written ▸ rewritten, ?_⟩
    have same_free : u.free = s.store.free := joins.free
    have same := joins.same
    rw [same_free] at same
    exact same
  · intro before b opened own fine w ch0 ch1 split whole room
    refine ⟨fun e wrong => ⟨s.store.corrects b.block e, ?_, s.store.read_flipped w.canonical b.block e, ?_, fun k other => ?_, rfl⟩, fun e f wrong => ?_⟩
    · exact exec_appendText_same least most found (u := setFlag .storeCorrected (s.setStore (s.store.corrects b.block e))) found opened opened own own
        fine (appendSymbol_corrected ⟨ch0, ch1⟩ found split whole room wrong)
    · exact (s.store.wrongOf_corrects b.block e b.block).trans (if_pos rfl)
    · exact (s.store.wrongOf_corrects b.block e k).trans (if_neg other)
    · exact exec_appendText_same least most found (u := post (.storeDamaged message.toNat before.length .append)
        (setFlag .storeUncorrectable (s.setStore (s.store.damages message.toNat before.length)))) (Store.find_update found fun _ => rfl) opened opened own own
        fine (appendSymbol_uncorrectable found split whole room wrong)
  · intro opened own fine w clean ch0 ch1 many
    obtain ⟨u, chain, taken, _, all, joins⟩ := appendAll_fits (ys := text.map Symbol.ofByte) ⟨ch0, ch1⟩ w found clean
      (blockAllowed_prepared many r.kind) (fun empty => absurd many (by rw [empty]; decide)) (by rwa [List.length_map])
    rw [bytes fine] at joins
    refine ⟨u, chain, taken, leaves_of_kicked (exec_appendText least most found opened own fine all) ?_, joins.text, joins.others, joins.directory,
      joins.free, joins.blocks, joins.rewritten, joins.same⟩
    rw [List.length_map, if_pos rfl]

end Sys2Proof.Machine
end

section
-- One proof is elaborated at a time: the threads of many at once do not fit the memory a check allows.
set_option Elab.async false

/-! SUPPORT. The head of the typeahead that is not bound for the transmitter (R53, R62, R68, R69, R95). -/

namespace Sys2Proof.Machine

/-- One symbol where the last block or the reserve gives room. -/
theorem appendSymbol_fits {s : State} (idle : s.NoChannel) {n : Nat} {r : Record} (w : s.store.Sound)
    (found : s.store.find n = some r) (clean : s.store.Clean r)
    (room : openLast r.chain ≠ none ∨ s.store.blockAllowed r.kind = true ∧ s.store.free ≠ []) (y : Symbol) :
    ∃ u chain taken, taken ≤ 1 ∧ appendSymbol n y s = (s.setStore u, true) ∧ s.store.Joins n r [y.toByte] u chain taken := by
  cases last : openLast r.chain with
  | some b =>
    obtain ⟨before, split, whole, small⟩ := openLast_some last
    obtain ⟨u, ran, joins⟩ := appendSymbol_fills idle w found clean split whole small y
    exact ⟨u, _, 0, Nat.zero_le 1, ran, joins⟩
  | none =>
    obtain ⟨allowed, some_free⟩ := room.resolve_left fun h => h last
    obtain ⟨b, rest, free⟩ := List.exists_cons_of_ne_nil some_free
    obtain ⟨u, ran, joins⟩ := appendSymbol_begins idle w found clean last allowed free y
    exact ⟨u, _, 1, le_rfl, ran, joins⟩

theorem startRelease_other {s : State} (other : s.line.holder ≠ some .keyboard) : startRelease s = s := if_neg fun h => other h.2

theorem keyboardReady_iff (row : SinkSet) (s : State) : keyboardReady row s = true ↔
    ((row.printer = true → s.printer.offer = .takes) ∧ (row.punch = true → s.punch.offer = .takes))
      ∧ (row.store = true → keyboardStoreOffer s = .takes) := by
  rw [keyboardReady, Bool.and_eq_true, sinksReady_iff, Bool.or_eq_true, Bool.not_eq_true', beq_iff_eq]
  cases row.store <;> simp

theorem storeSpoils_iff (row : SinkSet) (s : State) : storeSpoils row s = true ↔
    ((row.printer = true → s.printer.offer = .takes) ∧ (row.punch = true → s.punch.offer = .takes))
      ∧ row.store = true ∧ keyboardStoreOffer s = .permanent := by
  rw [storeSpoils, Bool.and_eq_true, Bool.and_eq_true, sinksReady_iff, beq_iff_eq, and_assoc]

/-- The head of the typeahead given to the printer and the punch of a row. -/
def State.gives (s : State) (row : SinkSet) (y : Symbol) (ys : List Symbol) : State := { s with
  kb := { s.kb with typeahead := ys }
  printer := if row.printer then s.printer.accept y else s.printer
  punch := if row.punch then s.punch.accept y else s.punch }

theorem keyboardLeave_silent {s : State} (other : s.line.holder ≠ some .keyboard) {row : SinkSet} (silent : row.store = false)
    (y : Symbol) (ys : List Symbol) : keyboardLeave row y ys s = s.gives row y ys := by
  rw [keyboardLeave, startRelease_other (by exact other), sinksTake_eq, if_neg (by rw [silent]; exact Bool.false_ne_true)]
  rfl

theorem keyboardLeave_store {s : State} (other : s.line.holder ≠ some .keyboard) {row : SinkSet} (stores : row.store = true)
    (y : Symbol) (ys : List Symbol) : keyboardLeave row y ys s = keyboardStore y (s.gives row y ys) := by
  rw [keyboardLeave, startRelease_other (by exact other), sinksTake_eq, if_pos stores]
  rfl

theorem gives_shut {s : State} {row : SinkSet} {y : Symbol} (ys : List Symbol)
    (ready : (row.printer = true → s.printer.offer = .takes) ∧ (row.punch = true → s.punch.offer = .takes)) :
    ¬ sinksPermanent row (s.gives row y ys) = true := by
  have shut := sinksTake_open ((sinksReady_iff row s).mpr ready) y
  rw [sinksTake_eq] at shut
  exact shut

theorem offerHead_welcome {s : State} {row : SinkSet} (in_force : keyboardRow s = row) (shut : ¬ sinksPermanent row s = true)
    (stores : row.store = true → keyboardStoreOffer s = .takes) : offerHead s = s := by
  refine if_neg fun h => ?_
  rw [in_force, keyboardRefused, Bool.or_eq_true, Bool.and_eq_true, beq_iff_eq] at h
  rcases h.2 with permanent | ⟨named, refused⟩
  · exact shut permanent
  · rw [stores named] at refused
    cases refused

/-- The head leaves where the sinks of its row take it (R68). -/
theorem exec_keyboardDelivery {s : State} {y : Symbol} {ys : List Symbol} (head : s.kb.typeahead = y :: ys) {row : SinkSet}
    (in_force : keyboardRow s = row) (silent : row.transmitter = false) (ready : keyboardReady row s = true) :
    exec .keyboardDelivery s = .next (kick (offerHead (keyboardLeave row y ys s))) := by
  change execKeyboardDelivery s = _
  rw [execKeyboardDelivery, head]
  dsimp only
  rw [in_force, if_pos ⟨silent, ready⟩]

theorem exec_keyboardDelivery_waits {s : State} {y : Symbol} {ys : List Symbol} (head : s.kb.typeahead = y :: ys)
    (held : (keyboardRow s).printer = true ∧ s.printer.offer ≠ .takes ∨ (keyboardRow s).punch = true ∧ s.punch.offer ≠ .takes) :
    exec .keyboardDelivery s = .next (kick s) := by
  have unready : ¬ (((keyboardRow s).printer = true → s.printer.offer = .takes) ∧ ((keyboardRow s).punch = true → s.punch.offer = .takes)) :=
    fun ready => held.elim (fun h => h.2 (ready.1 h.1)) fun h => h.2 (ready.2 h.1)
  change execKeyboardDelivery s = _
  rw [execKeyboardDelivery, head]
  dsimp only
  rw [if_neg fun h => unready ((keyboardReady_iff _ s).mp h.2).1, if_neg fun h => unready ((storeSpoils_iff _ s).mp h.2).1]

theorem exec_keyboardDelivery_spoiled {s : State} {y : Symbol} {ys : List Symbol} (head : s.kb.typeahead = y :: ys) {row : SinkSet}
    (in_force : keyboardRow s = row) (silent : row.transmitter = false) (spoils : storeSpoils row s = true) :
    exec .keyboardDelivery s = .next (kick (discardHeads s)) := by
  have refused := ((storeSpoils_iff row s).mp spoils).2
  change execKeyboardDelivery s = _
  rw [execKeyboardDelivery, head]
  dsimp only
  rw [in_force, if_neg, if_pos ⟨silent, spoils⟩]
  rintro ⟨_, ready⟩
  have takes := ((keyboardReady_iff row s).mp ready).2 refused.1
  rw [refused.2] at takes
  cases takes

/-- Settles O36. -/
theorem keyboardHeadIsDelivered : Obligations.KeyboardHeadIsDelivered := by
  refine ⟨fun s y ys head mode other => ?_, ?_⟩
  · have delivers {row : SinkSet} (in_force : s.dist.rowLocal = row) (silent : row.transmitter = false) (bare : row.store = false)
        (ready : (row.printer = true → s.printer.offer = .takes) ∧ (row.punch = true → s.punch.offer = .takes)) :
        Leaves .keyboardDelivery s (s.gives row y ys) := by
      have local_row : keyboardRow s = row := by rw [keyboardRow, mode]; exact in_force
      have storeless (h : row.store = true) : False := Bool.false_ne_true (bare.symm.trans h)
      refine leaves_of_kicked (exec_keyboardDelivery head local_row silent ((keyboardReady_iff row s).mpr ⟨ready, fun h => (storeless h).elim⟩)) ?_
      rw [keyboardLeave_silent other bare]
      exact offerHead_welcome (s := s.gives row y ys) local_row (gives_shut ys ready) fun h => (storeless h).elim
    refine ⟨fun row takes => ?_, fun row takes => ?_, fun row printer punch => ?_, fun row printer punch nobody requests ab => ?_⟩
    · exact delivers row rfl rfl ⟨fun _ => takes, fun h => Bool.noConfusion h⟩
    · exact delivers row rfl rfl ⟨fun h => Bool.noConfusion h, fun _ => takes⟩
    · exact delivers row rfl rfl ⟨fun _ => printer, fun _ => punch⟩
    · have local_row : keyboardRow s = ⟨false, true, true, false⟩ := by rw [keyboardRow, mode]; exact row
      rw [exec_keyboardDelivery_waits head (.inr ⟨by rw [local_row], by rw [punch]; exact fun h => Offer.noConfusion h⟩),
        kick_settled (settleKeyboard_silent (by rw [local_row]) (by rw [requests]; exact List.not_mem_nil)) (.inr ⟨nobody, ab⟩)]
  · intro s y ys row head mode silent other absent still given ready
    have in_force : keyboardRow s = row := by
      rw [keyboardRow]
      rcases mode with ⟨line, rfl⟩ | ⟨loc, rfl⟩
      · rw [line]
      · rw [loc]
    have quiet : s.line.txChar ≠ none ∨ s.line.holder = none ∧ s.line.abState = .none := still.imp_right fun ⟨a, _, b⟩ => ⟨a, b⟩
    have rests (u : State) (row_u : keyboardRow u = row) (line : u.line = s.line) : kick u = u :=
      kick_settled (settleKeyboard_silent (by rw [row_u, silent]) (by rwa [line])) (by rwa [line])
    refine ⟨fun bare takes => ?_, fun held => ?_, fun stores takes closed => ?_, ?_⟩
    · have storeless (h : row.store = true) : False := Bool.false_ne_true (bare.symm.trans h)
      rw [exec_keyboardDelivery head in_force silent ((keyboardReady_iff row s).mpr ⟨takes, fun h => (storeless h).elim⟩),
        keyboardLeave_silent other bare,
        offerHead_welcome (s := s.gives row y ys) in_force (gives_shut ys takes) fun h => (storeless h).elim,
        rests (s.gives row y ys) in_force rfl]
      rfl
    · have waits : ∀ {o : Offer}, o = .forTime → o ≠ .takes := fun h => by rw [h]; exact fun h => Offer.noConfusion h
      rw [exec_keyboardDelivery_waits head (in_force.symm ▸ held.imp (And.imp_right waits) (And.imp_right waits)), rests s in_force rfl]
    · have discards : discardHeads s = { s with kb := { s.kb with typeahead := [] }, printer := { s.printer with bell := true } } := by
        rw [discardHeads, LineUnit.withdraw_absent absent, startRelease_other (by exact other)]
        rfl
      rw [exec_keyboardDelivery_spoiled head in_force silent
        ((storeSpoils_iff row s).mpr ⟨takes, stores, keyboardStoreOffer_none closed⟩), discards]
      exact congrArg Host.Outcome.next (rests _ in_force rfl)
    · intro n r stores takes slot found kind w clean ch0 ch1 many
      have open_store : keyboardStoreOffer s = .takes :=
        (keyboardStoreOffer_prepared slot found kind).trans (if_pos (.inr (Nat.lt_of_succ_lt many)))
      obtain ⟨u, chain, taken, few, ran, joins⟩ := appendSymbol_fits (s := s.gives row y ys) ⟨ch0, ch1⟩ w found clean
        (.inr ⟨blockAllowed_prepared (Nat.lt_of_succ_lt many) r.kind, fun empty => absurd many (by
          rw [show s.store.free = [] from empty]
          decide)⟩) y
      have stored : keyboardStore y (s.gives row y ys) = (s.gives row y ys).setStore u := by
        rw [keyboardStore, show (s.gives row y ys).store.slotKeyboard = some n from slot]
        dsimp only
        rw [ran, if_pos rfl]
      have free : u.free = s.store.free.drop taken := joins.free
      have slot' : u.slotKeyboard = some n := by rw [joins.same]; exact slot
      have welcome := offerHead_welcome (s := (s.gives row y ys).setStore u) (row := row) in_force (gives_shut ys takes) fun _ => by
        refine (keyboardStoreOffer_prepared (s := (s.gives row y ys).setStore u) slot' (joins.found found) kind).trans
          (if_pos (.inr ?_))
        rw [State.setStore_store, free, List.length_drop]
        omega
      refine ⟨u, chain, taken, ?_, joins.text, joins.others, joins.directory, free, joins.blocks, few, joins.rewritten, joins.same⟩
      rw [exec_keyboardDelivery head in_force silent ((keyboardReady_iff row s).mpr ⟨takes, fun _ => open_store⟩),
        keyboardLeave_store other stores, stored, welcome, rests ((s.gives row y ys).setStore u) in_force rfl]
      rfl

end Sys2Proof.Machine
end

section
-- One proof is elaborated at a time: the threads of many at once do not fit the memory a check allows.
set_option Elab.async false

/-! SUPPORT. Captures, automatic sending and collection (R170, R172, R175 to R179): how a capture ends, how an attempt fails, and what the
sequencer makes of CONTROL's characters, of the end of the answer-back and of its channels' reports. -/

namespace Sys2Proof.Machine

/-! ## Patterns and owners (R74, R175) -/

theorem matches_eq (pattern : List PatPos) : ∀ run : List Symbol, patternMatches pattern run = Matches pattern run := by
  induction pattern with
  | nil =>
    intro run
    rw [patternMatches, Matches, List.zip_nil_left, List.all_nil, Bool.and_true, List.length_nil, decide_eq_true (Nat.zero_le _)]
  | cons q qs ih =>
    intro run
    cases run with
    | nil => rfl
    | cons y ys =>
      rw [patternMatches, ih ys, Matches, Matches, List.zip_cons_cons, List.all_cons, List.length_cons, List.length_cons]
      have fits : q.fits y = (match q with | .dontCare => true | .symbol z => !y.mutilated && y.code == z.code && y.cls == z.cls) := by
        cases q with
        | dontCare => rfl
        | symbol z => rfl
      rw [fits, Bool.and_left_comm, show decide (qs.length + 1 ≤ ys.length + 1) = decide (qs.length ≤ ys.length) by simp]
        <;> rfl

theorem collectable_eq (captured : List Symbol) (r : Record) : collectable captured r = r.CollectedBy captured := by
  rw [collectable, matches_eq]
  rfl

/-! ## The end of a capture (R170) -/

/-- A capture has ended, with its status and its event. -/
def State.captureOver (s : State) : State :=
  let got := s.calls.captured
  let status : CapStatus := if got = [] then .timeout else .captured
  post (.capture status got.length (got.take 4)) { s with calls := { s.calls with
    capturing := false, captureStartT := false, captureGapT := false, status := status
    phase := if s.calls.phase = some .capture then some .traffic else s.calls.phase } }

/-- A capture has ended, the phase as it stood. -/
def State.captureEnded (s : State) : State :=
  post (.capture (if s.calls.captured = [] then .timeout else .captured) s.calls.captured.length (s.calls.captured.take 4))
    (s.setCalls { s.calls with
      capturing := false, captureStartT := false, captureGapT := false
      status := if s.calls.captured = [] then .timeout else .captured })

theorem captureStop_eq (s : State) : captureStop s = if s.calls.phase = some .capture then
      match s.store.slotLine with
      | some n => if s.calls.captured = [] then s.captureOver else updateMsg n (fun r => { r with remote := s.calls.captured }) s.captureOver
      | none => s.captureOver
    else s.captureOver := by
  have ended : s.captureOver = if s.calls.phase = some .capture
      then s.captureEnded.setCalls { s.captureEnded.calls with phase := some .traffic } else s.captureEnded := by
    by_cases capture : s.calls.phase = some .capture
    · simp only [State.captureOver, if_pos capture]
      rfl
    · simp only [State.captureOver, if_neg capture]
      rfl
  have stop : captureStop s = if s.calls.phase = some .capture then
        match s.store.slotLine with
        | some n => if s.calls.captured = [] then s.captureEnded.setCalls { s.captureEnded.calls with phase := some .traffic }
          else updateMsg n (fun r => { r with remote := s.calls.captured })
            (s.captureEnded.setCalls { s.captureEnded.calls with phase := some .traffic })
        | none => s.captureEnded.setCalls { s.captureEnded.calls with phase := some .traffic }
      else s.captureEnded := rfl
  rw [stop]
  by_cases capture : s.calls.phase = some .capture
  · rw [if_pos capture, if_pos capture, ended, if_pos capture]
  · rw [if_neg capture, if_neg capture, ended, if_neg capture]

theorem captureStop_plain {s : State} (plain : s.calls.phase ≠ some .capture ∨ s.calls.captured = [] ∨ s.store.slotLine = none) :
    captureStop s = s.captureOver := by
  rw [captureStop_eq]
  split_ifs with capture none
  · cases s.store.slotLine <;> rfl
  · rcases plain with other | empty | closed
    · exact absurd capture other
    · exact absurd empty none
    · rw [closed]
  · rfl

theorem captureStop_remote {s : State} {n : Nat} (phase : s.calls.phase = some .capture) (got : s.calls.captured ≠ [])
    (slot : s.store.slotLine = some n) : captureStop s = s.captureOver.setStore { s.store with
      directory := s.store.directory.map fun q => if q.number = n then { q with remote := s.calls.captured } else q } := by
  rw [captureStop_eq, if_pos phase, slot]
  exact if_neg got

theorem captureEnd_unowned {s : State} (auto : s.calls.auto = none) : captureEnd s = captureStop s := by
  have kept : (captureStop s).calls.auto = none := by
    rw [captureStop_eq, ← auto]
    cases s.store.slotLine <;> split_ifs <;> rfl
  rw [captureEnd, kept]

/-! ## An automatic send fails (R178, R179) -/

/-- A record after an attempt that failed (R178). -/
def attempted (limit : Nat) (m : Record) : Record := { m with delivery := if limit ≤ m.attempts then .failed else .ready }

/-- The clear that an automatic send requests at its end. -/
def State.autoCleared (s : State) : State := post (.clearRequested .autoSend) { s with calls := { s.calls with
  state := .clearing, clearGuardT := true, settleT := none, idleT := none, auto := none, phase := some .traffic } }

theorem clearRequest_autoSend {s : State} (in_call : s.calls.state = .incoming ∨ s.calls.state = .outgoing)
    (capturing : s.calls.capturing = false) :
    clearRequest .autoSend (s.setCalls { s.calls with auto := none, phase := some .traffic }) = s.autoCleared :=
  clearRequest_quiet (by exact in_call) (by rfl) (by exact capturing) .autoSend

theorem autoFail_eq {s : State} (in_call : s.calls.state = .incoming ∨ s.calls.state = .outgoing)
    (capturing : s.calls.capturing = false) (a : AutoSend) {cause : AutoCause} (own : cause ≠ .aborted) : autoFail a cause s =
      (post (.autoSendFailed a.message cause) (s.setStore { s.store with
        directory := s.store.directory.map fun q => if q.number = a.message then attempted s.calls.attemptLimit q else q })).autoCleared := by
  have rule : attemptRule s.calls.attemptLimit cause = attempted s.calls.attemptLimit := funext fun r => if_neg own
  rw [autoFail, autoFailCore, rule]
  exact clearRequest_autoSend (s := post (.autoSendFailed a.message cause) (s.setStore { s.store with
    directory := s.store.directory.map fun q => if q.number = a.message then attempted s.calls.attemptLimit q else q })) in_call capturing

theorem handControl_eq (y : Symbol) (s : State) :
    handControl y s = s.setLine ({ s.line with control := some y }.asked .control) := by
  rw [handControl, request, LineUnit.request_asked]
  rfl

/-! ## CONTROL's characters (R41) -/

theorem copied_silent {s : State} (row : s.dist.rowSent = ⟨false, false, false, false⟩) (closed : s.store.slotLine = none) (y : Symbol) :
    s.copied y = s.setCalls { s.calls with
      idleT := if s.calls.state = .incoming ∨ s.calls.state = .outgoing then some s.calls.idle else s.calls.idleT } := by
  simp only [State.copied, row, closed, Bool.false_and, Bool.or_false]
  rfl

/-- The idle timer started afresh in a call (R173). -/
def Calls.restarted (c : Calls) : Calls := { c with
  idleT := if c.state = .incoming ∨ c.state = .outgoing then some c.idle else c.idleT }

theorem speaks_silent {s : State} (row : s.dist.rowSent = ⟨false, false, false, false⟩) (closed : s.store.slotLine = none) (y : Symbol) :
    s.speaks y = (s.puts y).setCalls s.calls.restarted :=
  copied_silent (s := s.puts y) row closed _

/-- CONTROL's grant released with nobody's request of its own in the list (R41). -/
def LineUnit.released (l : LineUnit) : LineUnit := { l with holder := l.requests.head?, requests := l.requests.tail }

theorem leave_grant {l : LineUnit} {r : Requester} (own : l.holder = some r) (other : r ≠ .keyboard) (absent : r ∉ l.requests)
    (enabled : l.txEnable = true) (rate : l.pendingRate = none) : l.leave r = l.released := by
  rw [LineUnit.leave_own own, LineUnit.withdraw_absent absent, if_neg other]
  cases list : l.requests with
  | nil =>
    rw [LineUnit.pass_kept (l := { l with holder := none, releaseRun := l.releaseRun }) (.inr (.inr (.inr list))), LineUnit.released, list]
    rfl
  | cons q qs =>
    rw [LineUnit.pass_given (l := { l with holder := none, releaseRun := l.releaseRun }) rfl enabled rate list, LineUnit.released, list]
    rfl

theorem charEnd_control {s : State} {y : Symbol} (empty : s.kb.typeahead = []) (absent : .keyboard ∉ s.line.requests)
    (alone : .control ∉ s.line.requests) (own : s.line.holder = some .control) (control : s.line.control = some y)
    (ab : s.line.abState = .none) (enabled : s.line.txEnable = true) (rate : s.line.pendingRate = none)
    (row : s.dist.rowSent = ⟨false, false, false, false⟩) (closed : s.store.slotLine = none) :
    charEnd s = settleKeyboard (if (emission s.line.txCase y).1 then (s.puts y).setCalls s.calls.restarted
      else controlTaken y (((s.puts y).setLine { (s.puts y).line with control := none }.released).setCalls s.calls.restarted)) := by
  rw [charEnd_holder empty absent ab enabled rate own]
  dsimp only
  rw [takeControl, show (s.setLine { s.line with txChar := none }).line.control = some y from control]
  dsimp only
  cases shift : (emission s.line.txCase y).1 with
  | true =>
    have speaks := putChar_speaks s y
    rw [shift, speaks_silent row closed] at speaks
    rw [if_pos (by exact shift), if_pos rfl]
    exact congrArg settleKeyboard speaks
  | false =>
    rw [if_neg (by exact fun h => Bool.false_ne_true (shift.symm.trans h)), if_neg Bool.false_ne_true, leave,
      leave_grant (by exact own) (fun h => Requester.noConfusion h) (by exact alone) (by exact enabled) (by exact rate), putChar_eq,
      copied_silent (by exact row) (by exact closed), State.puts, shift]
    rfl

/-! ## The sequencer's channels (R176, R179) -/

/-- A channel that the sequencer starts on a message for the transmitter (R109, R111, R112). -/
theorem startChan_sends (c : Chan) {s : State} {n : Nat} {r : Record} {b : ChainBlock} {bs : List ChainBlock}
    (found : s.store.find n = some r) (chain : r.chain = b :: bs) (fill : 1 ≤ b.fill) (whole : b.damaged = false)
    (clean : s.store.wrongOf b.block = []) :
    startChan c n 0 .justTransmitter .now .sequencer s = (s.sends c n b, none) := by
  obtain ⟨w, at_w⟩ : ∃ w : ChanWork, w = ⟨.pending, n, 0, .justTransmitter, .now, true, .sequencer, none⟩ := ⟨_, rfl⟩
  obtain ⟨v, at_v⟩ : ∃ v : State, v = updateMsg n (fun r => { r with readers := r.readers + 1 }) (s.setChan c (some w)) := ⟨_, rfl⟩
  have begun : startChan c n 0 .justTransmitter .now .sequencer s = proceedChan c v := by rw [at_v, at_w]; rfl
  have there : v.chan c = some w := by rw [at_v]; cases c <;> rfl
  have started : v.store.find w.message = some { r with readers := r.readers + 1 } := by
    rw [at_v, at_w]
    exact Store.find_update (t := (s.setChan c _).store) (by cases c <;> exact found) fun _ => rfl
  have reads : v.store.wrongOf b.block = [] ∧ v.store.blockBytes b.block = s.store.blockBytes b.block ∧ v.line = s.line := by
    rw [at_v]
    cases c <;> exact ⟨clean, rfl, rfl⟩
  have bare : w.copy = none := by rw [at_w]
  have runs := proceedChan_clean there started (before := []) chain (Nat.zero_le _)
    (show w.position < 0 + b.fill by rw [at_w, Nat.zero_add]; exact fill)
    (.inr ⟨fun held => by rw [bare]; exact (Option.some_ne_none _).symm, whole, reads.1, rfl⟩)
  have open_sink : ¬ sinksPermanent w.sinks v = true := by
    rw [at_w]
    exact Bool.false_ne_true
  have sends : w.sinks.transmitter = true := by rw [at_w]; rfl
  dsimp only at runs
  rw [if_neg open_sink, if_pos sends, reads.2.1, reads.2.2] at runs
  rw [begun, runs, at_v, at_w]
  cases c <;> rfl

/-- The lowest-numbered IDLE channel. -/
theorem idleChan_first {s : State} (ch0 : s.ch0 = none) : idleChan s = some .ch0 := if_pos ch0

theorem idleChan_none {s : State} : idleChan s = none ↔ s.ch0 ≠ none ∧ s.ch1 ≠ none := by
  unfold idleChan
  split_ifs with ch0 ch1
  · simp [ch0]
  · simp [ch1]
  · simp [ch0, ch1]

/-! ## What the sequencer hears (R176, R179) -/

theorem told_auto {c : Chan} {s : State} {a : AutoSend} (auto : s.calls.auto = some a) (own : a.channel = some c) (rep : Report) :
    told c (s, some rep) = autoReport a rep s := by
  change seqReport c rep s = _
  rw [seqReport, auto]
  exact if_pos own

theorem told_coll {c : Chan} {s : State} (auto : s.calls.auto = none) {k : Collection} {n : Nat} (coll : s.calls.coll = some k)
    (current : k.current = some (n, c)) (rep : Report) : told c (s, some rep) = collReport n rep s := by
  change seqReport c rep s = _
  rw [seqReport, auto, coll]
  dsimp only
  rw [Option.bind_some, current]
  exact if_pos rfl

theorem autoReport_done_clearing {a : AutoSend} {s : State} (clearing : s.calls.state = .clearing) : autoReport a .done s =
    post (.autoSendDone a.message) { s with
      store := { s.store with directory := s.store.directory.map fun q => if q.number = a.message then
        { q with delivery := .sent, remote := if s.calls.captured = [] then q.remote else s.calls.captured } else q }
      calls := { s.calls with auto := none, phase := some .traffic } } := by
  rw [autoReport]
  exact if_pos clearing

theorem autoReport_done {a : AutoSend} {s : State} (going : s.calls.state ≠ .clearing) : autoReport a .done s =
    post (.autoSendDone a.message) { s with
      store := { s.store with directory := s.store.directory.map fun q => if q.number = a.message then
        { q with delivery := .sent, remote := if s.calls.captured = [] then q.remote else s.calls.captured } else q }
      line := { s.line with control := some ⟨1, .neutral, false⟩ }.asked .control
      calls := { s.calls with auto := some ⟨a.message, .trailerCr, none⟩ } } := by
  rw [autoReport]
  dsimp only
  rw [if_neg (by exact going), handControl_eq]
  rfl

theorem collEnd_eq {s : State} {k : Collection} (coll : s.calls.coll = some k) (incoming : s.calls.state = .incoming) :
    collEnd s = post (.collectionDone k.collected k.skipped) (s.setCalls { s.calls with coll := none, phase := some .traffic }) := by
  rw [collEnd, coll]
  dsimp only
  rw [if_pos (by exact incoming)]
  rfl

/-- What a report makes of a collection's current message (R176). -/
def Report.marks (rep : Report) (q : Record) : Record := match rep with
  | .done => { q with delivery := .collected }
  | .aborted => q
  | _ => { q with delivery := .held }

theorem collOutcome_eq {n : Nat} {s : State} {k : Collection} (coll : s.calls.coll = some k) {rep : Report} (ended : rep ≠ .aborted) :
    collOutcome n rep s = { s with
      store := { s.store with directory := s.store.directory.map fun q => if q.number = n then rep.marks q else q }
      calls := { s.calls with coll := some { k with
        current := none, collected := if rep = .done then k.collected + 1 else k.collected } } } := by
  have heard : collOutcome n rep s = (updateMsg n rep.marks s).setCalls { s.calls with coll := s.calls.coll.map fun k =>
      { k with current := none, collected := if rep = .done then k.collected + 1 else k.collected } } := by
    cases rep with
    | aborted => exact absurd rfl ended
    | done => rfl
    | stopped => rfl
    | held _ => rfl
  rw [heard, coll]
  rfl

/-- A collection's channel is held: its message is HELD again and the collection ends (R176). -/
theorem collReport_held {n : Nat} {s : State} {k : Collection} (coll : s.calls.coll = some k) (incoming : s.calls.state = .incoming)
    (why : HoldReason) : collReport n (.held why) s = post (.collectionDone k.collected k.skipped) { s with
      store := { s.store with directory := s.store.directory.map fun q => if q.number = n then { q with delivery := .held } else q }
      calls := { s.calls with coll := none, phase := some .traffic } } := by
  rw [collReport, collOutcome_eq coll (fun h => Report.noConfusion h)]
  exact (if_pos rfl).trans (collEnd_eq (k := { k with current := none }) rfl incoming)

/-- The channel of a collection ends its message, and its list is done (R176). -/
theorem collReport_last {n : Nat} {s : State} {i j : Nat} {c : Chan} (coll : s.calls.coll = some ⟨[], some (n, c), i, j⟩)
    (incoming : s.calls.state = .incoming) {rep : Report} (ended : rep = .done ∨ rep = .stopped) : collReport n rep s =
      post (.collectionDone (if rep = .done then i + 1 else i) j) { s with
        store := { s.store with directory := s.store.directory.map fun q => if q.number = n then rep.marks q else q }
        calls := { s.calls with coll := none, phase := some .traffic } } := by
  have heeded : rep ≠ .aborted ∧ rep.isHeld = false := by
    rcases ended with rfl | rfl <;> exact ⟨fun h => Report.noConfusion h, rfl⟩
  rw [collReport, collOutcome_eq coll heeded.1]
  dsimp only
  rw [if_neg (by rw [heeded.2]; exact Bool.false_ne_true), collTurns]
  exact collEnd_eq (k := ⟨[], none, if rep = .done then i + 1 else i, j⟩) rfl incoming

/-- A collection goes on with the next message of its list, on CH0 (R176). -/
theorem collTurns_next {s : State} {n : Nat} {rest : List Nat} {k : Collection} {r : Record} {b : ChainBlock} {bs : List ChainBlock}
    (coll : s.calls.coll = some k) (going : s.calls.state ≠ .clearing) (found : s.store.find n = some r)
    (mine : r.CollectedBy s.calls.captured = true) (ch0 : s.ch0 = none) (chain : r.chain = b :: bs) (fill : 1 ≤ b.fill)
    (whole : b.damaged = false) (clean : s.store.wrongOf b.block = []) :
    collTurns (n :: rest) s = ({ s with
      calls := { s.calls with coll := some { k with remaining := rest, current := some (n, .ch0) } }
      store := { s.store with directory := s.store.directory.map fun q => if q.number = n then { q with delivery := .sending } else q } }
        : State).sends .ch0 n b := by
  rw [collTurns, if_neg going]
  dsimp only
  rw [show findMsg n (s.setCalls { s.calls with coll := s.calls.coll.map fun k => { k with remaining := rest, current := none } }) = some r
    from found]
  dsimp only
  rw [if_pos (by rw [collectable_eq]; exact mine), idleChan_first (by exact ch0)]
  dsimp only
  rw [startChan_sends .ch0 (r := { r with delivery := .sending }) (by
      exact Store.find_update (t := s.store) (f := fun m => { m with delivery := .sending }) found fun _ => rfl) chain fill whole
    (by exact clean)]
  dsimp only
  rw [State.setCalls_calls, coll]
  rfl

end Sys2Proof.Machine
end

section
-- One proof is elaborated at a time: the threads of many at once do not fit the memory a check allows.
set_option Elab.async false

/-! SUPPORT. The proof that captures end and sends begin as R170 and R175 to R179 give it, from the rules of the part before. -/

namespace Sys2Proof.Machine

theorem seqWruAnswered_header {s : State} {a : AutoSend} (auto : s.calls.auto = some a) (step : a.step = .headerAnswer) :
    seqWruAnswered s = { s with
      line := { s.line with control := some ⟨1, .neutral, false⟩ }.asked .control
      calls := { s.calls with auto := some { a with step := .headerCr } } } := by
  rw [seqWruAnswered, auto]
  dsimp only
  rw [step]
  exact handControl_eq _ _

theorem seqWruAnswered_trailer {s : State} {a : AutoSend} (auto : s.calls.auto = some a) (step : a.step = .trailerAnswer)
    (in_call : s.calls.state = .incoming ∨ s.calls.state = .outgoing) (capturing : s.calls.capturing = false) :
    seqWruAnswered s = s.autoCleared := by
  rw [seqWruAnswered, auto]
  dsimp only
  rw [step]
  exact clearRequest_autoSend in_call capturing

theorem answerBack_heard {s : State} (ab : s.line.abState = .none) (latch : s.ident.latch = none) :
    answerBack s = seqWruAnswered (post (.wruAnswered 0 0 true) s) := by rw [answerBack, ab, latch]

/-! ## The comparison (R178) -/

theorem captureEnd_compares {s : State} {a : AutoSend} (auto : s.calls.auto = some a) (step : a.step = .capture)
    (plain : s.calls.phase ≠ some .capture) : captureEnd s = autoCompare a s.captureOver := by
  rw [captureEnd, captureStop_plain (.inl plain), show s.captureOver.calls.auto = some a from auto]
  exact if_pos step

theorem identityAccepts_iff (expected : List PatPos) (s : State) : identityAccepts expected s.captureOver = true ↔
    expected = [] ∨ (s.calls.captured ≠ [] ∧ Matches expected s.calls.captured = true) := by
  have over_status : s.captureOver.calls.status = .captured ↔ s.calls.captured ≠ [] := by
    change (if s.calls.captured = [] then CapStatus.timeout else CapStatus.captured) = .captured ↔ _
    split_ifs with none
    · simp [none]
    · simp [none]
  rw [identityAccepts, Bool.or_eq_true, Bool.and_eq_true, beq_iff_eq, beq_iff_eq, over_status, matches_eq]
  rfl

theorem autoCompare_accepts {s : State} {a : AutoSend} {r : Record} (found : s.store.find a.message = some r)
    (accepted : identityAccepts r.expected s = true) :
    autoCompare a s = answerBack (s.setCalls { s.calls with auto := some { a with step := .headerAnswer } }) := by
  rw [autoCompare, show findMsg a.message s = some r from found]
  exact if_pos accepted

theorem autoCompare_refuses {s : State} {a : AutoSend} {r : Record} (found : s.store.find a.message = some r)
    (refused : ¬ identityAccepts r.expected s = true) : autoCompare a s = autoFail a .ident s := by
  rw [autoCompare, show findMsg a.message s = some r from found]
  exact if_neg refused

/-! ## AUTO SEND (R177) -/

theorem autoSendState_iff (r : Record) (s : State) : autoSendState r s = true ↔ ¬ (s.calls.state = .outgoing
    ∧ s.calls.phase = some .traffic ∧ r.kind = .prepared ∧ r.state ≠ .opened ∧ r.delivery = .ready) := by
  have kind : r.kind = .received ↔ r.kind ≠ .prepared := by cases r.kind <;> simp
  simp only [autoSendState, Bool.or_eq_true, bne_iff_ne, beq_iff_eq, kind]
  tauto

/-! ## CONTROL's characters (R170, R179) -/

theorem controlTaken_wru (s : State) : controlTaken ⟨6, .figures, false⟩ s = s.setCalls (if s.calls.state = .clearing
    then { s.calls with wruPending := false } else { s.calls with
      wruPending := false, capturing := true, captured := [], captureStartT := true, captureGapT := false
      auto := s.calls.auto.map fun a => if a.step = .wru then { a with step := .capture } else a }) := by
  rw [controlTaken, if_pos rfl]
  dsimp only
  by_cases clearing : s.calls.state = .clearing
  · rw [if_pos (by exact clearing), if_pos clearing]
  · rw [if_neg (by exact clearing), if_neg clearing]
    rfl

theorem controlTaken_auto {s : State} {y : Symbol} (other : y ≠ ⟨6, .figures, false⟩) {a : AutoSend} (auto : s.calls.auto = some a) :
    controlTaken y s = match a.step with
      | .headerCr => handControl symLf (s.setCalls { s.calls with auto := some { a with step := .headerLf } })
      | .headerLf => autoBody a s
      | .trailerCr => handControl symLf (s.setCalls { s.calls with auto := some { a with step := .trailerLf } })
      | .trailerLf => answerBack (s.setCalls { s.calls with auto := some { a with step := .trailerAnswer } })
      | _ => s := by
  rw [controlTaken, if_neg other, auto] <;> rfl

theorem asked_absent {l : LineUnit} {q r : Requester} (other : r ≠ q) (absent : q ∉ l.requests) : q ∉ (l.asked r).requests := fun h => by
  rw [← LineUnit.request_asked] at h
  exact (LineUnit.request_subset h).elim absent fun same => other same.symm

/-- A request that nobody stands against is granted (R39). -/
theorem asked_free {l : LineUnit} {r : Requester} (nobody : l.holder = none) (requests : l.requests = []) (enabled : l.txEnable = true)
    (rate : l.pendingRate = none) : l.asked r = { l with holder := some r } := by
  simp [LineUnit.asked, nobody, requests, enabled, rate]

theorem released_alone {l : LineUnit} (requests : l.requests = []) : l.released = { l with holder := none } := by
  have head : l.requests.head? = none := by rw [requests]; rfl
  have tail : l.requests.tail = l.requests := by rw [requests]; rfl
  rw [LineUnit.released, head, tail]

theorem symCr_plain (c : Case3) : emission c ⟨1, .neutral, false⟩ = (false, 1) := by cases c <;> rfl

/-- The CR of a HEADER taken with nobody else in the arbiter: LF is handed to CONTROL, which has the grant again (R41, R179). -/
theorem charEnd_headerCr {s : State} {a : AutoSend} (empty : s.kb.typeahead = []) (requests : s.line.requests = [])
    (own : s.line.holder = some .control) (control : s.line.control = some ⟨1, .neutral, false⟩) (ab : s.line.abState = .none)
    (enabled : s.line.txEnable = true) (rate : s.line.pendingRate = none) (row : s.dist.rowSent = ⟨false, false, false, false⟩)
    (closed : s.store.slotLine = none) (auto : s.calls.auto = some a) (step : a.step = .headerCr) : charEnd s = { s with
      line := { s.line with
        txChar := some ⟨1, s.line.stopLen, false⟩, control := some ⟨2, .neutral, false⟩, holder := some .control }
      calls := { s.calls.restarted with auto := some { a with step := .headerLf } } } := by
  have unlisted (r : Requester) : r ∉ s.line.requests := requests ▸ List.not_mem_nil
  rw [charEnd_control empty (unlisted _) (unlisted _) own control ab enabled rate row closed, symCr_plain, if_neg Bool.false_ne_true,
    released_alone (l := { (s.puts ⟨1, .neutral, false⟩).line with control := none }) requests,
    controlTaken_auto (fun h => absurd h (by decide)) (a := a) (by exact auto), step]
  dsimp only
  rw [handControl_eq, asked_free (by rfl) (by exact requests) (by exact enabled) (by exact rate),
    settleKeyboard_absent (by exact empty) (by exact unlisted _), State.puts, symCr_plain]
  rfl

/-- The last symbol of a closed message given by the sequencer's channel, which holds the grant (R114, R115). -/
theorem charEnd_lastSymbol {ch : Chan} {s : State} {w : ChanWork} {r : Record} {before : List ChainBlock} {b : ChainBlock} {off : Nat}
    {copied : List Symbol} {y : Symbol} (empty : s.kb.typeahead = []) (requests : s.line.requests = [])
    (own : s.line.holder = some (.chan ch)) (ab : s.line.abState = .none) (enabled : s.line.txEnable = true)
    (rate : s.line.pendingRate = none) (row : s.dist.rowSent = ⟨false, false, false, false⟩) (closed : s.store.slotLine = none)
    (at_ch : s.chan ch = some w) (running : w.phase = .running) (sinks : w.sinks = ⟨true, false, false, false⟩)
    (starter : w.starter = .sequencer) (found : s.store.find w.message = some r) (shut : r.state ≠ .opened)
    (chain : r.chain = before ++ [b]) (position : w.position = (before.map (·.fill)).sum + off) (inside : off + 1 = b.fill)
    (copy : w.copy = some ⟨before.length, copied, true⟩) (at_off : copied[off]? = some y) (plain : (emission s.line.txCase y).1 = false) :
    charEnd s = settleKeyboard (told ch (post (.channelDone ch w.message) (({ s with
      line := { s.line with
        txChar := some ⟨(emission s.line.txCase y).2, s.line.stopLen, false⟩
        txCase := caseAfter s.line.txUsos s.line.txCase (emission s.line.txCase y).2, holder := none }
      calls := s.calls.restarted
      store := { s.store with directory := s.store.directory.map fun q => if q.number = w.message then
        { q with readers := q.readers - 1 } else q } } : State).setChan ch none), some .done)) := by
  have symbol := chanSymbol_copied found chain position (by omega) copy at_off
  obtain ⟨v, at_v⟩ : ∃ v, v = (s.puts y).setCalls s.calls.restarted := ⟨_, rfl⟩
  have line : v.line.leave (.chan ch) = { s.line with
      txChar := some ⟨(emission s.line.txCase y).2, s.line.stopLen, false⟩
      txCase := caseAfter s.line.txUsos s.line.txCase (emission s.line.txCase y).2, holder := none } := by
    have list : v.line.requests = [] := by rw [at_v]; exact requests
    rw [leave_grant (by rw [at_v]; exact own) (fun h => Requester.noConfusion h) (list ▸ List.not_mem_nil) (by rw [at_v]; exact enabled)
      (by rw [at_v]; exact rate), released_alone list, at_v, State.puts, plain]
    rfl
  have goes := proceedChan_ends (c := ch) (s := v.setChan ch (some { w with position := w.position + 1 }))
    (w := { w with position := w.position + 1 }) (r := r) (by cases ch <;> rfl) (by rw [at_v]; cases ch <;> exact found)
    (locate_past chain (n := w.position + 1) (by omega) (fun k none => absurd none List.not_mem_nil)) shut
  rw [reportOf_sequencer (by exact starter), chanToIdle_setChan ch (w := w) (v := { w with position := w.position + 1 }) rfl, chanToIdle_eq,
    line] at goes
  rw [charEnd_chan_speaks empty (requests ▸ List.not_mem_nil) own ab enabled rate at_ch running sinks symbol,
    if_neg (by rw [plain]; exact Bool.false_ne_true), speaks_silent row closed, ← at_v, goes, at_v]
  cases ch <;> rfl

/-! ## HOLD and STOP of the sequencer's channel (R120, R122) -/

theorem holdChan_heard {c : Chan} {s : State} {w : ChanWork} (at_c : s.chan c = some w) (own : w.starter = .sequencer)
    (unheld : ∀ r, w.phase ≠ .held r) (other : s.line.holder ≠ some (.chan c)) (absent : .chan c ∉ s.line.requests) (why : HoldReason) :
    holdChan c why s = (post (.channelHeld c w.message w.position why) (s.setChan c (some { w with phase := .held why })),
      some (.held why)) := by
  have stays : leave (.chan c) (s.setChan c (some { w with phase := .held why })) = s.setChan c (some { w with phase := .held why }) := by
    cases c <;> exact congrArg (State.setLine _) (LineUnit.leave_absent other absent)
  rw [holdChan, at_c]
  dsimp only
  rw [stays, reportOf_sequencer own]
  cases phase : w.phase with
  | held r => exact absurd phase (unheld r)
  | pending => rfl
  | running => rfl
  | waiting => rfl

theorem stopChan_heard {c : Chan} {s : State} {w : ChanWork} (at_c : s.chan c = some w) (own : w.starter = .sequencer)
    (other : s.line.holder ≠ some (.chan c)) (absent : .chan c ∉ s.line.requests) :
    stopChan c s = (post (.channelStopped c w.message w.position) ((s.setChan c none).setStore { s.store with
      directory := s.store.directory.map fun q => if q.number = w.message then { q with readers := q.readers - 1 } else q }),
      some .stopped) := by
  rw [stopChan, at_c]
  dsimp only
  rw [chanToIdle_eq, LineUnit.leave_absent other absent, reportOf_sequencer own]
  rfl

theorem autoReport_command (a : AutoSend) (s : State) : autoReport a (.held .command) s = autoFail a .held s := rfl

theorem autoReport_stopped (a : AutoSend) (s : State) : autoReport a .stopped s = autoFail a .stopped s := rfl

theorem collReport_next {m n : Nat} {rest : List Nat} {s : State} {i j : Nat} {c : Chan}
    (coll : s.calls.coll = some ⟨n :: rest, some (m, c), i, j⟩) : collReport m .done s = collTurns (n :: rest) { s with
      store := { s.store with directory := s.store.directory.map fun q => if q.number = m then Report.done.marks q else q }
      calls := { s.calls with coll := some ⟨n :: rest, none, i + 1, j⟩ } } := by
  rw [collReport, collOutcome_eq coll (fun h => Report.noConfusion h)]
  exact if_neg Bool.false_ne_true

/-- Settles O59. -/
theorem capturesEndAndSendsBegin : Obligations.CapturesEndAndSendsBegin := by
  unfold Obligations.CapturesEndAndSendsBegin
  intro changed inCall attempted' cleared
  refine ⟨?_, fun s => ⟨fun off => if_neg (by rw [off]; exact Bool.false_ne_true), fun off => if_neg (by rw [off]; exact Bool.false_ne_true)⟩,
    ?_, ?_, ?_, ?_, ?_⟩
  · intro s c timed got status ended
    have ran : exec c s = .next (kick (captureEnd s)) := by
      rcases timed with ⟨rfl, on⟩ | ⟨rfl, on⟩ <;> exact if_pos on
    refine ⟨fun auto plain => ?_, fun n auto phase some_got slot => ?_, fun a r auto step phase found => ?_⟩
    · rw [captureEnd_unowned auto, captureStop_plain plain] at ran
      exact brings_of_kick ran id
    · rw [captureEnd_unowned auto, captureStop_remote phase some_got slot] at ran
      exact brings_of_kick ran id
    · have plain : s.calls.phase ≠ some .capture := by rw [phase]; decide
      rw [captureEnd_compares auto step plain] at ran
      intro accepted header
      have accepts (fine : accepted) := autoCompare_accepts (s := s.captureOver) found ((identityAccepts_iff _ s).mpr fine)
      refine ⟨fun fine ab latch => ?_, fun fine ab => ?_, fun fine ab latch => ?_, fun bad in_call => ?_⟩
      · rw [accepts fine, answerBack_pending (by exact ab) (by exact latch)] at ran
        exact brings_of_kick ran fun e => engaged_answerBack e rfl rfl rfl (.inl fun h => AbState.noConfusion h)
      · rw [accepts fine, answerBack_absorbed (by exact ab)] at ran
        exact brings_of_kick ran fun e => engaged_answerBack e rfl rfl rfl (.inr rfl)
      · rw [accepts fine, answerBack_heard (by exact ab) (by exact latch),
          seqWruAnswered_header (a := { a with step := .headerAnswer }) (by rfl) rfl] at ran
        exact brings_of_kick ran fun e => engaged_wruAsk e rfl rfl
      · rw [autoCompare_refuses (s := s.captureOver) found (mt (identityAccepts_iff _ s).mp bad),
          autoFail_eq (by exact in_call) (by rfl) a (fun h => AutoCause.noConfusion h)] at ran
        exact brings_of_kick ran id
  · intro p message s refused
    have ran : exec (.autoSend p message) s = execAutoSend p message s := rfl
    rw [execAutoSend] at ran
    refine ⟨fun absent => ?_, fun r found => ?_⟩
    · rw [show findMsg message.toNat s = none from Store.find_absent absent] at ran
      exact ran
    rw [show findMsg message.toNat s = some r from found] at ran
    dsimp only at ran
    intro fit busy
    have bars : (idleChan s = none ∨ s.calls.wruPending = true ∨ s.calls.capturing = true) ↔ busy :=
      or_congr_left idleChan_none
    refine ⟨fun unfit => ran.trans (if_pos ((autoSendState_iff r s).mpr unfit)), fun fine barred => ?_, fun fine free => ?_⟩
    · exact ran.trans ((if_neg fun h => (autoSendState_iff r s).mp h fine).trans (if_pos (bars.mpr barred)))
    · rw [if_neg fun h => (autoSendState_iff r s).mp h fine, if_neg (mt bars.mp free), wruAsk_eq] at ran
      exact brings_of_kick ran fun e => answer_engaged (by exact engaged_wruAsk e rfl rfl) p _
  · intro s k y busy empty absent alone own control ab enabled rate row closed code calls line
    have ran := exec_characterEnd busy
    rw [charEnd_control empty absent alone own control ab enabled rate row closed] at ran
    have unlisted : .keyboard ∉ line.requests := fun h => absent (List.mem_of_mem_tail h)
    obtain ⟨v, at_v⟩ : ∃ v : State, v = { s with line := line, calls := calls } := ⟨_, rfl⟩
    have taken (plain : (emission s.line.txCase y).1 = false) : exec .characterEnd s = .next (settleKeyboard (controlTaken y v)) := by
      have here : ((s.puts y).setLine { (s.puts y).line with control := none }.released).setCalls s.calls.restarted = v := by
        rw [State.puts, plain, at_v]
        rfl
      rw [ran, if_neg (by rw [plain]; exact Bool.false_ne_true), here]
    refine ⟨fun shift => ?_, fun plain wru => ?_, ?_⟩
    · rw [if_pos shift, settleKeyboard_absent (by exact empty) (by exact absent), State.puts, caseAfter_shift shift, shift] at ran
      exact ran
    · rw [taken plain, wru, controlTaken_wru, settleKeyboard_absent (by rw [at_v]; exact empty) (by rw [at_v]; exact unlisted), at_v]
      rfl
    intro a plain other auto stepped
    replace ran := taken plain
    rw [controlTaken_auto (s := v) other (show v.calls.auto = some a by rw [at_v]; exact auto)] at ran
    have settles {u : State} (kb : u.kb = s.kb) {r : Requester} (keys : r ≠ .keyboard) {l : LineUnit} (list : l.requests = line.requests)
        (at_line : u.line = l.asked r) : settleKeyboard u = u :=
      settleKeyboard_absent (kb ▸ empty) (at_line ▸ asked_absent keys (list ▸ unlisted))
    have next {t : AutoStep} (none : a.channel = none) : ({ a with step := t } : AutoSend) = ⟨a.message, t, .none⟩ := by rw [← none]
    have hands {t : AutoStep} : settleKeyboard (handControl symLf (v.setCalls { v.calls with auto := some ⟨a.message, t, none⟩ }))
        = { s with line := { line with control := some ⟨2, .neutral, false⟩ }.asked .control, calls := stepped t none } := by
      rw [handControl_eq, settles (by rw [at_v]; rfl) (r := .control) (fun h => Requester.noConfusion h)
        (l := { line with control := some ⟨2, .neutral, false⟩ }) rfl (by rw [at_v]; rfl), at_v]
      rfl
    refine ⟨fun step none => ?_, fun step none => ?_, fun r b bs step ch0 found chain fill whole clean => ?_,
      fun step ch0 ch1 in_call capturing => ?_, fun step none latch => ?_, fun step latch in_call capturing => ?_⟩
    · rw [ran, step]
      dsimp only
      rw [next none, hands]
    · rw [ran, step]
      dsimp only
      rw [next none, hands]
    · rw [ran, step]
      dsimp only
      rw [autoBody, idleChan_first (by rw [at_v]; exact ch0)]
      dsimp only
      rw [startChan_sends .ch0 (r := r) (b := b) (bs := bs) (by rw [at_v]; exact found) chain fill whole (by rw [at_v]; exact clean)]
      dsimp only
      rw [settles (r := .chan .ch0) (l := line) (by rw [at_v]; rfl) (fun h => Requester.noConfusion h) rfl (by rw [at_v]; rfl), at_v]
      rfl
    · rw [ran, step]
      dsimp only
      rw [autoBody, idleChan_none.mpr (by rw [at_v]; exact ⟨ch0, ch1⟩)]
      dsimp only
      rw [autoFail_eq (by rw [at_v]; exact in_call) (by rw [at_v]; exact capturing) a (fun h => AutoCause.noConfusion h),
        settleKeyboard_absent (by rw [at_v]; exact empty) (by rw [at_v]; exact unlisted), at_v]
      rfl
    · rw [ran, step]
      dsimp only
      rw [next none, answerBack_pending (by rw [at_v]; exact ab) (by rw [at_v]; exact latch),
        settleKeyboard_absent (by rw [at_v]; exact empty) (by rw [at_v]; exact unlisted), at_v]
      rfl
    · rw [ran, step]
      dsimp only
      rw [answerBack_heard (by rw [at_v]; exact ab) (by rw [at_v]; exact latch),
        seqWruAnswered_trailer (a := { a with step := .trailerAnswer }) (by rw [at_v]; rfl) rfl (by rw [at_v]; exact in_call)
          (by rw [at_v]; exact capturing),
        settleKeyboard_absent (by rw [at_v]; exact empty) (by rw [at_v]; exact unlisted), at_v]
      rfl
  · intro s k a busy ab text auto idle answered
    have ran : exec .characterEnd s = .next (kick (seqWruAnswered (answered idle s.calls))) :=
      (exec_characterEnd busy).trans (congrArg Host.Outcome.next (if_pos ⟨ab, text⟩))
    refine ⟨fun step => ?_, fun step nobody requests empty enabled rate row closed none => ?_, fun step in_call capturing => ?_⟩
    · rw [seqWruAnswered_header (by exact auto) step] at ran
      exact leaves_of_kicked ran rfl
    · rw [seqWruAnswered_header (by exact auto) step] at ran
      have granted : ({ idle with control := some ⟨1, .neutral, false⟩ } : LineUnit).asked .control
          = { idle with control := some ⟨1, .neutral, false⟩, holder := some .control } :=
        asked_free (l := { idle with control := some ⟨1, .neutral, false⟩ }) nobody requests enabled rate
      obtain ⟨v, at_v⟩ : ∃ v : State, v = answered { idle with control := some ⟨1, .neutral, false⟩, holder := some .control }
        { s.calls with auto := some { a with step := .headerCr } } := ⟨_, rfl⟩
      have at_kick : exec .characterEnd s = .next (kick v) := by
        rw [ran, at_v, ← granted]
        rfl
      have goes := charEnd_headerCr (s := v) (a := { a with step := .headerCr }) (by rw [at_v]; exact empty) (by rw [at_v]; exact requests)
        (by rw [at_v]; rfl) (by rw [at_v]; rfl) (by rw [at_v]; rfl) (by rw [at_v]; exact enabled) (by rw [at_v]; exact rate)
        (by rw [at_v]; exact row) (by rw [at_v]; exact closed) (by rw [at_v]; rfl) rfl
      have same : v.setLine { v.line with txChar := .none } = v := by rw [at_v]; rfl
      rw [charEnd_kick (.inl (by rw [at_v]; exact fun h => AbState.noConfusion h)), same] at goes
      rw [at_kick, goes, at_v]
      rfl
    · rw [seqWruAnswered_trailer (by exact auto) step (by exact in_call) (by exact capturing)] at ran
      exact leaves_of_kicked ran rfl
  · intro ch s w r before b off copied y k busy empty requests own ab enabled rate row closed at_ch running sinks starter found shut chain
      position inside copy at_off plain code line calls done sent taken
    have unlisted (q : Requester) : q ∉ s.line.requests := requests ▸ List.not_mem_nil
    obtain ⟨ended, at_ended⟩ : ∃ ended, ended = done id := ⟨_, rfl⟩
    have ran : exec .characterEnd s = .next (settleKeyboard (told ch (ended, some .done))) := by
      rw [exec_characterEnd busy, charEnd_lastSymbol empty requests own ab enabled rate row closed at_ch running sinks starter found shut chain
        position inside copy at_off plain, at_ended]
      rfl
    have facts : ended.calls = calls ∧ ended.line = line ∧ ended.kb = s.kb ∧ ended.store = { s.store with
        directory := changed s.store.directory w.message fun q => { q with readers := q.readers - 1 } } := by
      rw [at_ended]
      cases ch <;> exact ⟨rfl, rfl, rfl, rfl⟩
    obtain ⟨at_calls, at_line, at_kb, at_store⟩ := facts
    have untyped : ended.kb.typeahead = [] := at_kb ▸ empty
    have keyless : .keyboard ∉ ended.line.requests := at_line ▸ unlisted _
    have done_eq (f : Record → Record) : done f = ended.setStore { s.store with
        directory := ended.store.directory.map fun q => if q.number = w.message then f q else q } := by
      have twice := map_changed_twice s.store.directory w.message (f := fun q => { q with readers := q.readers - 1 }) (g := f) fun _ => rfl
      rw [at_store, twice, at_ended]
      cases ch <;> rfl
    have at_ch0 (first : ch = .ch0) : ended.ch0 = none := by
      subst first
      rw [at_ended]
      rfl
    clear_value done
    refine ⟨fun auto going => ?_, fun auto clearing => ?_, fun i j auto coll incoming => ?_, ?_⟩
    · have alone : ({ ended.line with control := some ⟨1, .neutral, false⟩ } : LineUnit).asked .control
          = { line with control := some ⟨1, .neutral, false⟩, holder := some .control } := by
        rw [at_line]
        exact asked_free rfl requests enabled rate
      rw [ran, told_auto (by rw [at_calls]; exact auto) rfl, autoReport_done (by rw [at_calls]; exact fun h => by rw [going] at h; cases h), alone,
        settleKeyboard_absent (by exact untyped) (by exact unlisted _), done_eq, at_calls, at_store]
      rfl
    · rw [ran, told_auto (by rw [at_calls]; exact auto) rfl, autoReport_done_clearing (by rw [at_calls]; exact clearing),
        settleKeyboard_absent (by exact untyped) (by exact keyless), done_eq, at_calls, at_store]
      rfl
    · rw [ran, told_coll (by rw [at_calls]; exact auto) (by rw [at_calls]; exact coll) rfl,
        collReport_last (by rw [at_calls]; exact coll) (by rw [at_calls]; exact incoming) (.inl rfl),
        settleKeyboard_absent (by exact untyped) (by exact keyless), done_eq, at_calls, at_store]
      rfl
    · intro i j n rest q c cs auto coll incoming first other next mine chain' fill whole clean
      have listed : ended.store.find n = some q := by
        rw [← next, at_store]
        exact Store.find_other (t := s.store) (f := fun q => { q with readers := q.readers - 1 }) (fun _ => rfl) rfl other
      rw [ran, told_coll (by rw [at_calls]; exact auto) (by rw [at_calls]; exact coll) rfl, collReport_next (by rw [at_calls]; exact coll),
        collTurns_next (r := q) (b := c) (bs := cs) (by rfl) (by rw [at_calls]; exact fun h => by rw [incoming] at h; cases h)
          (by exact (Store.find_other (t := ended.store) (f := Report.done.marks) (fun _ => rfl) rfl other).trans listed)
          (by rw [at_calls]; exact mine) (by exact at_ch0 first) chain' fill whole (by rw [at_store]; exact clean),
        settleKeyboard_absent (by exact untyped) (by exact asked_absent (r := .chan .ch0) (fun h => Requester.noConfusion h) keyless), done_eq,
        at_calls, at_store]
      rfl
  · intro ch p channel s w names at_ch own unheld other absent held stopped failed kept
    have known : chanOf channel = some ch := by rw [names]; cases ch <;> rfl
    have holds := holdChan_heard at_ch own unheld other absent .command
    have stops := stopChan_heard at_ch own other absent
    have to_hold := exec_holdHeard (p := p) known (at_ch ▸ Option.some_ne_none w) holds
    have to_stop := exec_stopHeard (p := p) known stops
    have held_calls : held.calls = s.calls := by cases ch <;> rfl
    have stopped_calls : stopped.calls = s.calls := by cases ch <;> rfl
    refine ⟨fun auto in_call capturing => ⟨?_, ?_⟩, fun rest i j auto coll incoming => ⟨?_, fun none => ?_⟩⟩
    · rw [told_auto (s := held) (a := ⟨w.message, .body, some ch⟩) (held_calls ▸ auto) rfl, autoReport_command,
        autoFail_eq (held_calls ▸ in_call) (held_calls ▸ capturing) _ (fun h => AutoCause.noConfusion h), held_calls] at to_hold
      exact brings_of_kick to_hold fun e => answer_engaged (by cases ch <;> exact e) p _
    · rw [told_auto (s := stopped) (a := ⟨w.message, .body, some ch⟩) (stopped_calls ▸ auto) rfl, autoReport_stopped,
        autoFail_eq (stopped_calls ▸ in_call) (stopped_calls ▸ capturing) _ (fun h => AutoCause.noConfusion h), stopped_calls] at to_stop
      exact brings_of_kick to_stop fun e => answer_engaged (by cases ch <;> exact e) p _
    · rw [told_coll (s := held) (k := ⟨rest, some (w.message, ch), i, j⟩) (held_calls ▸ auto) (held_calls ▸ coll) rfl,
        collReport_held (held_calls ▸ coll) (held_calls ▸ incoming), held_calls] at to_hold
      exact brings_of_kick to_hold fun e => answer_engaged (by cases ch <;> exact e) p _
    · rw [none] at coll
      rw [told_coll (s := stopped) (k := ⟨[], some (w.message, ch), i, j⟩) (stopped_calls ▸ auto) (stopped_calls ▸ coll) rfl,
        collReport_last (stopped_calls ▸ coll) (stopped_calls ▸ incoming) (.inr rfl), stopped_calls] at to_stop
      exact brings_of_kick to_stop fun e => answer_engaged (by cases ch <;> exact e) p _

end Sys2Proof.Machine
end

section
-- One proof is elaborated at a time: the threads of many at once do not fit the memory a check allows.
set_option Elab.async false

/-! SUPPORT. The stop sample, part by part: its reports (R25, R32), its delivery to printer and punch (R61, R66, R67, R71), the received
message that its symbol joins (R90 to R92, R172), the trigger recogniser (R76 to R78) and the capture that runs (R170). -/

namespace Sys2Proof.Machine

/-! ## The sample's reports (R25, R32) -/

theorem PortState.receive_flagged (q : PortState) (e : Event) :
    ({ q with flags := { q.flags with distortionSeen := true } } : PortState).receive e
      = { q.receive e with flags := { (q.receive e).flags with distortionSeen := true } } := by
  unfold PortState.receive
  dsimp only
  split_ifs <;> rfl

/-- The distortion of a character above the threshold is told once (R32). -/
def State.distorted (s : State) : State :=
  if decide (s.line.threshold < percent s.line.maxDisp) && !s.line.distReported then post (.distortion (percent s.line.maxDisp)) s else s

/-- The flags of a stop sample (R25, R32), and those of a symbol dropped by printer and punch (R66). -/
def Flags.sampled (f : Flags) (mark above lostPrint lostPunch : Bool) : Flags :=
  { f with
    framingSeen := f.framingSeen || !mark, distortionSeen := f.distortionSeen || above
    printLost := f.printLost || lostPrint, punchLost := f.punchLost || lostPunch }

theorem LineUnit.stopped_eq (l : LineUnit) (mark : Bool) (rx : Case2) : l.stopped mark rx = { l with
    rx := if mark then .hunting else .spacingHold, rxCase := rx, breakDeclared := l.breakDeclared && mark
    lastP := percent l.maxDisp, peakP := max l.peakP (percent l.maxDisp), received := min 65535 (l.received + 1)
    overCount := if decide (l.threshold < percent l.maxDisp) then min 65535 (l.overCount + 1) else l.overCount
    framingCount := if !mark then min 65535 (l.framingCount + 1) else l.framingCount
    distReported := l.distReported || decide (l.threshold < percent l.maxDisp)
    maxDisp := (l.stopped mark rx).maxDisp, units := (l.stopped mark rx).units } := by
  simp only [decide_eq_true_eq]
  cases mark with
  | true => simp only [Bool.and_true]; rfl
  | false => simp only [Bool.and_false]; rfl

theorem stopReports_eq (s : State) (l : LineUnit) (mark : Bool) : stopReports s.line mark (s.setLine l) = { s with
    line := l
    sPort := { s.distorted.sPort with
      flags := s.distorted.sPort.flags.sampled mark (decide (s.line.threshold < percent s.line.maxDisp)) false false }
    xPort := { s.distorted.xPort with
      flags := s.distorted.xPort.flags.sampled mark (decide (s.line.threshold < percent s.line.maxDisp)) false false } } := by
  unfold stopReports State.distorted
  by_cases above : s.line.threshold < percent s.line.maxDisp
  · cases reported : s.line.distReported with
    | true => cases mark <;> simp [above, setFlag, Flags.set, Flags.sampled]
    | false => cases mark <;> simp [above, setFlag, Flags.set, Flags.sampled, post, PortState.receive_flagged]
  · cases mark <;> simp [above, setFlag, Flags.set, Flags.sampled, State.setLine]

/-! ## Printer and punch (R61, R66, R67, R71) -/

/-- The state of a stop sample after printer and punch have been offered its symbol. -/
def State.arrived (s : State) (l : LineUnit) (y : Symbol) : State :=
  let toPrinter := s.dist.rowReceive.printer
  let toPunch := s.dist.rowReceive.punch && gatePasses s
  let lost (b : Bool) (o : Offer) := b && o != .takes
  let flagged (f : Flags) := f.sampled s.pins.lineMark (decide (s.line.threshold < percent s.line.maxDisp))
    (lost toPrinter s.printer.offer) (lost toPunch s.punch.offer)
  { s with
    line := l
    printer := if toPrinter && s.printer.offer == .takes then s.printer.accept y else s.printer
    punch := if toPunch && s.punch.offer == .takes then s.punch.accept y else s.punch
    sPort := { s.distorted.sPort with flags := flagged s.distorted.sPort.flags }
    xPort := { s.distorted.xPort with flags := flagged s.distorted.xPort.flags } }

theorem receiveDeliver_eq (s : State) (l : LineUnit) (y : Symbol) (p : Nat) (exceeds : Bool) :
    receiveDeliver y p exceeds (stopReports s.line s.pins.lineMark (s.setLine l)) =
      restartIdle (markOwed (s.dist.rowReceive.printer && s.printer.offer != .takes)
        (s.dist.rowReceive.punch && gatePasses s && s.punch.offer != .takes)
        (if s.dist.rowReceive.store || s.dist.storeAdd then storeReceive y p exceeds (s.arrived l y) else s.arrived l y)) := by
  have reaches : (State.printed (stopReports s.line s.pins.lineMark (s.setLine l)) s.dist.rowReceive.printer y).punched
      (s.dist.rowReceive.punch && gatePasses s) y = s.arrived l y := by
    rw [stopReports_eq, State.printed, State.punched, State.arrived]
    simp only [Flags.sampled, Bool.or_false]
  have same : receiveSet (stopReports s.line s.pins.lineMark (s.setLine l)) = receiveSet s
      ∧ gatePasses (stopReports s.line s.pins.lineMark (s.setLine l)) = gatePasses s := by
    rw [stopReports_eq]
    exact ⟨rfl, rfl⟩
  have offers : (stopReports s.line s.pins.lineMark (s.setLine l)).printer.offer = s.printer.offer
      ∧ ((stopReports s.line s.pins.lineMark (s.setLine l)).printed s.dist.rowReceive.printer y).punch.offer = s.punch.offer := by
    rw [stopReports_eq]
    exact ⟨rfl, rfl⟩
  unfold receiveDeliver
  dsimp only
  rw [same.1, same.2, offerPrinter_eq]
  dsimp only
  rw [offerPunch_eq, offers.1]
  dsimp only
  rw [show (receiveSet s).printer = s.dist.rowReceive.printer from rfl, show (receiveSet s).punch = s.dist.rowReceive.punch from rfl,
    offers.2, reaches]
  rfl

/-! ## The received message (R90 to R92, R172) -/

/-- The quality fields of a received message after a symbol (R91). -/
def Record.sampled (p : Nat) (exceeds mutilated : Bool) (m : Record) : Record := { m with
  worstP := max m.worstP p
  overCount := if exceeds then bump m.overCount else m.overCount
  mutilatedCount := if mutilated then bump m.mutilatedCount else m.mutilatedCount }

/-- The symbol brings the mutilated count of a received message to the limit of an unattended call that is not clearing yet (R172). -/
@[reducible] def State.AtLimit (s : State) (y : Symbol) (r : Record) : Prop :=
  y.mutilated = true ∧ s.calls.snapshot = some .unattended ∧ s.calls.state = .incoming ∧ s.calls.mutLimit ≠ 0
    ∧ bump r.mutilatedCount = s.calls.mutLimit

/-- The remote identity that a capture's end writes to the received message of an unattended call (R170). -/
def Calls.identifies (c : Calls) (m : Record) : Record :=
  if c.phase = some .capture ∧ c.captured ≠ [] then { m with remote := c.captured } else m

/-- The clear that the mutilation limit requests, by which a running capture ends, but for the identity it writes (R170, R172). -/
def State.mutilationStopped (s : State) : State :=
  let clearing : Calls := { s.calls with state := .clearing, clearGuardT := true, settleT := none, idleT := none }
  let got := s.calls.captured
  if s.calls.capturing then
    let status : CapStatus := if got = [] then .timeout else .captured
    post (.capture status got.length (got.take 4)) { post (.clearRequested .mutilation) s with
      calls := { clearing with
        capturing := false, captureStartT := false, captureGapT := false, status := status
        phase := if s.calls.phase = some .capture then some .traffic else s.calls.phase } }
  else post (.clearRequested .mutilation) { s with calls := clearing }

/-- The clear that the mutilation limit requests, n the received message that is open. -/
def State.mutilationCleared (s : State) (n : Nat) : State :=
  if s.calls.capturing then updateMsg n s.calls.identifies s.mutilationStopped else s.mutilationStopped

theorem updateMsg_id (n : Nat) (s : State) : updateMsg n (fun m => m) s = s :=
  congrArg (fun d => s.setStore { s.store with directory := d })
    ((List.map_congr_left fun q _ => ite_self q).trans s.store.directory.map_id)

theorem clearRequest_mutilation {s : State} {n : Nat} (incoming : s.calls.state = .incoming) (auto : s.calls.auto = none)
    (slot : s.store.slotLine = some n) : clearRequest .mutilation s = s.mutilationCleared n := by
  cases capturing : s.calls.capturing with
  | false =>
    rw [clearRequest_quiet (.inl incoming) auto capturing, State.mutilationCleared, State.mutilationStopped, capturing]
    rfl
  | true =>
    obtain ⟨v, at_v⟩ : ∃ v, v = post (.clearRequested .mutilation) (s.setCalls { s.calls with
        state := .clearing, clearGuardT := true, settleT := none, idleT := none }) := ⟨_, rfl⟩
    have begins : clearRequest .mutilation s = autoCut (captureStop v) := by
      rw [clearRequest, if_pos (.inl incoming), ← at_v]
      exact congrArg autoCut (if_pos (by rw [at_v]; exact capturing))
    have facts : v.calls.phase = s.calls.phase ∧ v.calls.captured = s.calls.captured ∧ v.store = s.store ∧ v.calls.auto = none := by
      rw [at_v]
      exact ⟨rfl, rfl, rfl, auto⟩
    obtain ⟨phase, got, store, unsent⟩ := facts
    have ended : v.captureOver = s.mutilationStopped := by
      rw [State.mutilationStopped, capturing, State.captureOver, at_v]
      rfl
    rw [begins, State.mutilationCleared, if_pos capturing, ← ended]
    by_cases identified : s.calls.phase = some .capture ∧ s.calls.captured ≠ []
    · have writes : s.calls.identifies = fun m => { m with remote := s.calls.captured } := funext fun m => if_pos identified
      rw [captureStop_remote (n := n) (phase.trans identified.1) (got ▸ identified.2) (store ▸ slot), autoCut_none (by exact unsent), got,
        writes]
      rfl
    · have writes : s.calls.identifies = fun m => m := funext fun m => if_neg identified
      have plain : v.calls.phase ≠ some .capture ∨ v.calls.captured = [] ∨ v.store.slotLine = none := by
        rw [phase, got]
        rw [not_and_or, not_not] at identified
        exact identified.imp_right .inl
      rw [captureStop_plain plain, autoCut_none (by exact unsent), writes, updateMsg_id]

theorem updateMsg_mutilationCleared (s : State) (n : Nat) {f : Record → Record} (same : ∀ q, (f q).number = q.number)
    (apart : ∀ q ys, f { q with remote := ys } = { f q with remote := ys }) :
    updateMsg n f (s.mutilationCleared n) = (updateMsg n f s).mutilationCleared n := by
  have stops : updateMsg n f s.mutilationStopped = (updateMsg n f s).mutilationStopped := by
    unfold State.mutilationStopped
    rw [updateMsg_calls]
    cases s.calls.capturing <;> rfl
  have writes (q : Record) : f (s.calls.identifies q) = s.calls.identifies (f q) := by
    unfold Calls.identifies
    split_ifs
    · exact apart q _
    · rfl
  have named (q : Record) : (s.calls.identifies q).number = q.number := by
    unfold Calls.identifies
    split_ifs <;> rfl
  rw [State.mutilationCleared, State.mutilationCleared, updateMsg_calls, ← stops]
  split_ifs
  · rw [updateMsg_updateMsg named, updateMsg_updateMsg same]
    exact congrArg (fun g => updateMsg n g s.mutilationStopped) (funext writes)
  · rfl

theorem markOwed_slot {s : State} {n : Nat} (slot : s.store.slotLine = some n) (print punch : Bool) : markOwed print punch s =
    updateMsg n (fun m => { m with printOwed := m.printOwed || print, punchOwed := m.punchOwed || punch }) s := by
  rw [markOwed, slot]

/-- What the symbol makes of the message's quality, and of the call at the mutilation limit (R91, R172). -/
theorem sampled_settles {s : State} {n : Nat} {r : Record} {y : Symbol} (found : s.store.find n = some r)
    (slot : s.store.slotLine = some n) (auto : s.AtLimit y r → s.calls.auto = none) (p : Nat) (exceeds : Bool) :
    let u := updateMsg n (Record.sampled p exceeds y.mutilated) s
    (match findMsg n u with
      | none => u
      | some r => if y.mutilated = true ∧ unattended u = true ∧ u.calls.mutLimit ≠ 0 ∧ r.mutilatedCount = u.calls.mutLimit
        then clearRequest .mutilation u else u)
      = if s.AtLimit y r then u.mutilationCleared n else u := by
  intro u
  have graded : findMsg n u = some (Record.sampled p exceeds y.mutilated r) := Store.find_update found fun _ => rfl
  rw [graded]
  dsimp only
  have counted : y.mutilated = true → (Record.sampled p exceeds y.mutilated r).mutilatedCount = bump r.mutilatedCount := fun h => if_pos h
  by_cases limit : s.AtLimit y r
  · have reached : y.mutilated = true ∧ unattended u = true ∧ u.calls.mutLimit ≠ 0
        ∧ (Record.sampled p exceeds y.mutilated r).mutilatedCount = u.calls.mutLimit := by
      obtain ⟨mutilated, unattended, incoming, some, count⟩ := limit
      exact ⟨mutilated, (unattended_iff u).mpr ⟨unattended, .inl incoming⟩, some, (counted mutilated).trans count⟩
    rw [if_pos limit, if_pos reached]
    exact clearRequest_mutilation limit.2.2.1 (auto limit) slot
  · rw [if_neg limit]
    split_ifs with reached
    · obtain ⟨mutilated, called, some, count⟩ := reached
      obtain ⟨unattended, state⟩ := (unattended_iff u).mp called
      have clearing : u.calls.state = .clearing := state.resolve_left fun incoming =>
        limit ⟨mutilated, unattended, incoming, some, (counted mutilated).symm.trans count⟩
      rw [clearRequest, if_neg (by rw [clearing]; decide)]
    · rfl

/-- A symbol that joins the received message n (R90, R91). -/
theorem receiveInto_joins {s u : State} {n : Nat} {r : Record} {y : Symbol} (appended : appendSymbol n y s = (u, true))
    (found : u.store.find n = some r) (slot : u.store.slotLine = some n) (auto : u.AtLimit y r → u.calls.auto = none) (p : Nat)
    (exceeds : Bool) : receiveInto n y p exceeds s = if u.AtLimit y r
      then (updateMsg n (Record.sampled p exceeds y.mutilated) u).mutilationCleared n
      else updateMsg n (Record.sampled p exceeds y.mutilated) u := by
  rw [← sampled_settles found slot auto p exceeds, receiveInto, appended]
  rfl

/-- The received message n truncated, told where it was not yet (R90). -/
def State.truncates (s : State) (n : Nat) (r : Record) : State :=
  updateMsg n (fun m => { m with truncated := true }) (if r.truncated then s else post (.storeFull n .blocks) s)

/-- A symbol that the received message n has no room for (R90, R91). -/
theorem receiveInto_loses {s : State} {n : Nat} {r : Record} {y : Symbol} (refused : appendSymbol n y s = (s, false))
    (found : s.store.find n = some r) (slot : s.store.slotLine = some n) (auto : s.AtLimit y r → s.calls.auto = none) (p : Nat)
    (exceeds : Bool) : receiveInto n y p exceeds s = if s.AtLimit y r
      then (updateMsg n (Record.sampled p exceeds y.mutilated) (s.truncates n r)).mutilationCleared n
      else updateMsg n (Record.sampled p exceeds y.mutilated) (s.truncates n r) := by
  have cut : (s.truncates n r).store = s.store.update n (fun m => { m with truncated := true })
      ∧ (s.truncates n r).calls = s.calls := by
    unfold State.truncates
    cases r.truncated <;> exact ⟨rfl, rfl⟩
  obtain ⟨store, calls⟩ := cut
  have there : (s.truncates n r).store.find n = some { r with truncated := true } := by
    rw [store]
    exact Store.find_update found fun _ => rfl
  have named : (s.truncates n r).store.slotLine = some n := by
    rw [store]
    exact slot
  have settles := sampled_settles (y := y) there named (by rw [State.AtLimit, calls]; exact auto) p exceeds
  simp only [State.AtLimit, calls] at settles ⊢
  refine Eq.trans ?_ settles
  have marks : (if r.truncated then updateMsg n (fun m => { m with truncated := true }) s
      else post (.storeFull n .blocks) (updateMsg n (fun m => { m with truncated := true }) s)) = s.truncates n r := by
    unfold State.truncates
    cases r.truncated <;> rfl
  rw [receiveInto, refused, show findMsg n s = some r from found, ← marks]
  rfl

/-! ## The trigger recogniser (R76 to R78) -/

theorem zipIdx_eq (l : List (Option Trigger)) : l.zipIdx = (List.range l.length).map fun n => (l.getD n none, n) := by
  refine List.ext_getElem (by simp) fun n below _ => ?_
  rw [List.getElem_zipIdx, List.getElem_map, List.getElem_range]
  rw [List.length_zipIdx] at below
  simp [List.getD, below]

theorem matching_eq (triggers : List (Option Trigger)) (h : List Symbol) : matching triggers h =
    (List.range triggers.length).filterMap fun n => match triggers.getD n none with
      | some e => if e.enable && Matches e.pattern (h.drop (h.length - e.pattern.length)) then some (n, e.action) else none
      | none => none := by
  rw [matching, zipIdx_eq, List.filterMap_map]
  refine List.filterMap_congr fun n _ => ?_
  rw [Function.comp_apply]
  dsimp only
  cases triggers.getD n none with
  | none => rfl
  | some e => dsimp only; rw [matches_eq]

/-- A symbol that the recogniser takes: neither an explicit shift nor BLANK (R76). -/
@[reducible] def Symbol.Eligible (y : Symbol) : Prop := y.kind ≠ .explicitShift ∧ y.kind ≠ .blank

theorem recognise_quiet {s : State} {y : Symbol} (quiet : ¬ y.Eligible ∨ matching s.dist.triggers (joinHistory s.dist.history y) = []) :
    recognise y s = if y.Eligible then s.setDist { s.dist with history := joinHistory s.dist.history y } else s := by
  unfold recognise
  by_cases eligible : y.Eligible
  · rw [if_pos eligible, if_neg (not_or.mpr eligible)]
    dsimp only
    rw [quiet.resolve_left (not_not.mpr eligible)]
  · rw [if_neg eligible, if_pos (by rw [← not_not (a := _ ∨ _), not_or]; exact eligible)]

theorem recognise_found {s : State} {y : Symbol} (eligible : y.Eligible) {found : List (Nat × TriggerAction)}
    (matches' : matching s.dist.triggers (joinHistory s.dist.history y) = found) (some : found ≠ []) : recognise y s =
      (triggerActs found (s.setDist { s.dist with history := joinHistory s.dist.history y })).setDist
        { (triggerActs found (s.setDist { s.dist with history := joinHistory s.dist.history y })).dist with history := [] } := by
  unfold recognise
  rw [if_neg (not_or.mpr eligible)]
  dsimp only
  rw [matches']
  cases found with
  | nil => exact absurd rfl some
  | cons q qs => rfl

/-- One entry matches, its action leaving the distributor alone. -/
theorem recognise_single {s u : State} {y : Symbol} (eligible : y.Eligible) {n : Nat} {a : TriggerAction}
    (found : matching s.dist.triggers (joinHistory s.dist.history y) = [(n, a)])
    (acts : triggerAct a (s.setDist { s.dist with history := joinHistory s.dist.history y })
      = u.setDist { s.dist with history := joinHistory s.dist.history y }) :
    recognise y s = post (.trigger n) (u.setDist { s.dist with history := [] }) := by
  rw [recognise_found eligible found (List.cons_ne_nil _ _), triggerActs, triggerActs, acts]
  rfl

theorem postAll_setDist (es : List Event) : ∀ (s : State) (d : Distributor), postAll es (s.setDist d) = (postAll es s).setDist d := by
  induction es with
  | nil => exact fun _ _ => rfl
  | cons e es ih => exact fun s d => ih (post e s) d

/-- The gate after an action (R78). -/
def TriggerAction.gate (a : TriggerAction) (open' : Bool) : Bool :=
  if a = .openGate then true else if a = .shutGate then false else open'

/-- Actions that move the gate alone (R71, R78). -/
theorem triggerActs_gates (found : List (Nat × TriggerAction)) : ∀ (s : State),
    (∀ q ∈ found, q.2 = .report ∨ q.2 = .openGate ∨ q.2 = .shutGate) → triggerActs found s =
      (postAll (found.map fun q => .trigger q.1) s).setDist { s.dist with
        gateOpen := found.foldl (fun g q => q.2.gate g) s.dist.gateOpen } := by
  induction found with
  | nil => exact fun _ _ => rfl
  | cons q qs ih =>
    intro s gates
    have acts : triggerAct q.2 s = s.setDist { s.dist with gateOpen := q.2.gate s.dist.gateOpen } := by
      rcases gates q (List.mem_cons_self) with report | opens | shuts
      · rw [report]; rfl
      · rw [opens]; rfl
      · rw [shuts]; rfl
    rw [triggerActs, ih _ fun p inside => gates p (List.mem_cons_of_mem _ inside), acts, List.map_cons, postAll, List.foldl_cons]
    refine (congrArg (fun v : State => v.setDist _) (postAll_setDist _ (post (.trigger q.1) s) _)).trans rfl

/-! ## The capture that runs (R170) -/

theorem captureOver_captured {s : State} (got : s.calls.captured ≠ []) (plain : s.calls.phase ≠ some .capture) : s.captureOver =
    post (.capture .captured s.calls.captured.length (s.calls.captured.take 4)) (s.setCalls { s.calls with
      capturing := false, captureStartT := false, captureGapT := false, status := .captured }) := by
  simp only [State.captureOver, if_neg got, if_neg plain]
  rfl

/-- The capture passes over a symbol (R170). -/
@[reducible] def State.Skips (s : State) (y : Symbol) : Prop :=
  ¬ y.Eligible ∨ ((y.kind = .cr ∨ y.kind = .lf) ∧ s.calls.captured = [])

theorem captureSee_skips {s : State} {y : Symbol} (skips : s.Skips y) : captureSee y s = s := by
  unfold captureSee
  refine if_neg fun h => h.2 ?_
  rw [← or_assoc]
  exact skips.imp_left fun h => by rw [← not_not (a := _ ∨ _), not_or]; exact h

theorem captureSee_takes {s : State} {y : Symbol} (capturing : s.calls.capturing = true) (takes : ¬ s.Skips y) : captureSee y s =
    if 20 ≤ (s.calls.captured ++ [y]).length
    then captureEnd (s.setCalls { s.calls with captured := s.calls.captured ++ [y], captureStartT := false, captureGapT := true })
    else s.setCalls { s.calls with captured := s.calls.captured ++ [y], captureStartT := false, captureGapT := true } := by
  unfold captureSee
  refine if_pos ⟨capturing, fun h => takes ?_⟩
  rw [← or_assoc] at h
  exact h.imp_left fun shift eligible => absurd shift (not_or.mpr eligible)

end Sys2Proof.Machine
end

section
-- One proof is elaborated at a time: the threads of many at once do not fit the memory a check allows.
set_option Elab.async false

/-! SUPPORT. The stop sample as a whole (R24 to R26, R90 to R92, R163): what it hands on leaves the receiver and the identity alone, and
what its delivery makes of the received message. -/

namespace Sys2Proof.Machine

/-! ## The receiver and the identity stand -/

/-- Nothing has moved the receiver's state or the identity. -/
def State.SameReceiver (s t : State) : Prop := t.line.rx = s.line.rx ∧ t.ident = s.ident

theorem State.SameReceiver.refl (s : State) : s.SameReceiver s := ⟨rfl, rfl⟩

theorem State.SameReceiver.trans {s t u : State} (a : s.SameReceiver t) (b : t.SameReceiver u) : s.SameReceiver u :=
  ⟨b.1.trans a.1, b.2.trans a.2⟩

theorem Moves.receiver {s t : State} (h : Moves s t) : s.SameReceiver t :=
  ⟨show t.still.line.rx = s.still.line.rx by rw [h.still], h.ident⟩

theorem triggerAct_receiver (a : TriggerAction) (s : State) : s.SameReceiver (triggerAct a s) := by
  cases a with
  | endMessage => exact (Moves.ofCloseLine (by decide) s).receiver
  | clearRequest => exact (Moves.ofClearRequest .trigger s).receiver
  | openGate => exact ⟨rfl, rfl⟩
  | shutGate => exact ⟨rfl, rfl⟩
  | sendHeld => exact (Moves.ofCollectionStart s).receiver
  | report => exact .refl s

theorem triggerActs_receiver (found : List (Nat × TriggerAction)) : ∀ s : State, s.SameReceiver (triggerActs found s) := by
  induction found with
  | nil => exact .refl
  | cons q qs ih => exact fun s => ((triggerAct_receiver q.2 s).trans (Moves.ofPost _ (.trigger q.1)).receiver).trans (ih _)

theorem recognise_receiver (y : Symbol) (s : State) : s.SameReceiver (recognise y s) := by
  unfold recognise
  split
  · exact .refl s
  · dsimp only
    split
    · exact ⟨rfl, rfl⟩
    · exact triggerActs_receiver _ (s.setDist _)

theorem handOff_receiver (y : Symbol) (s : State) : s.SameReceiver (handOff y s) := by
  have sees (u : State) := (Moves.ofCaptureSee y u).receiver
  unfold handOff
  split_ifs
  · exact (sees (drawFree s)).trans (recognise_receiver y _)
  · exact (recognise_receiver y (drawFree s)).trans (sees _)
  · exact recognise_receiver y s

/-! ## The message that the symbol joins -/

/-- The owed marks of a symbol that printer or punch has dropped (R67). -/
def Record.owing (print punch : Bool) (m : Record) : Record :=
  { m with printOwed := m.printOwed || print, punchOwed := m.punchOwed || punch }

theorem restartIdle_setStore (s : State) (t : Store) : restartIdle (s.setStore t) = (restartIdle s).setStore t := by
  unfold restartIdle
  rw [State.setStore_calls]
  split_ifs <;> rfl

theorem restartIdle_post (e : Event) (s : State) : restartIdle (post e s) = post e (restartIdle s) := by
  unfold restartIdle
  rw [post_calls]
  split_ifs <;> rfl

theorem mutilationCleared_state (s : State) (n : Nat) : (s.mutilationCleared n).calls.state = .clearing := by
  unfold State.mutilationCleared State.mutilationStopped
  cases s.calls.capturing <;> rfl

theorem mutilationCleared_slot (s : State) (n : Nat) : (s.mutilationCleared n).store.slotLine = s.store.slotLine := by
  unfold State.mutilationCleared State.mutilationStopped
  cases s.calls.capturing <;> rfl

/-- The end of a delivery whose symbol has been offered to message n: its quality, its owed marks, the limit and the idle timer (R67, R91,
R172, R173). -/
theorem delivered_into {s : State} {n : Nat} (slot : s.store.slotLine = some n) (limit : Prop) [Decidable limit] (p : Nat)
    (exceeds mutilated print punch : Bool) :
    restartIdle (markOwed print punch (if limit then (updateMsg n (Record.sampled p exceeds mutilated) s).mutilationCleared n
      else updateMsg n (Record.sampled p exceeds mutilated) s))
      = if limit then (updateMsg n (fun m => ((m.owing print punch).sampled p exceeds mutilated)) s).mutilationCleared n
        else restartIdle (updateMsg n (fun m => ((m.owing print punch).sampled p exceeds mutilated)) s) := by
  have marks : updateMsg n (Record.owing print punch) (updateMsg n (Record.sampled p exceeds mutilated) s)
      = updateMsg n (fun m => ((m.owing print punch).sampled p exceeds mutilated)) s :=
    updateMsg_updateMsg (f := Record.sampled p exceeds mutilated) (fun _ => rfl) s
  split_ifs
  · rw [markOwed_slot (by exact (mutilationCleared_slot _ n).trans slot), ← marks,
      ← updateMsg_mutilationCleared _ n (f := Record.owing print punch) (fun _ => rfl) fun _ _ => rfl]
    refine (if_neg ?_).trans rfl
    rw [updateMsg_calls, mutilationCleared_state]
    decide
  · rw [markOwed_slot (by exact slot), ← marks]
    rfl

theorem Store.nextFree_unique {t : Store} (counter : 1 ≤ t.counter ∧ t.counter ≤ 9999) (room : t.directory.length < 48) {n k : Nat}
    (number : n = nextNumber^[k] t.counter) (carried : ∀ j, j < k → ∃ q ∈ t.directory, q.number = nextNumber^[j] t.counter)
    (fresh : ∀ q ∈ t.directory, q.number ≠ n) : t.nextFree = n ∧ n ≤ 9999 := by
  obtain ⟨⟨_, most⟩, absent⟩ := Store.nextFree_fresh counter (room.le.trans (by decide))
  obtain ⟨i, first, before⟩ := t.nextFree_first
  have same : i = k := by
    rcases lt_trichotomy i k with less | same | more
    · obtain ⟨q, inside, taken⟩ := carried i less
      exact absurd (List.mem_map.mpr ⟨q, inside, taken.trans first.symm⟩) absent
    · exact same
    · obtain ⟨q, inside, taken⟩ := before k more
      exact absurd (taken.trans number.symm) (fresh q inside)
  have equal : t.nextFree = n := by rw [first, same, number]
  exact ⟨equal, equal ▸ most⟩

/-- The store with an empty received message n opened for the line (R84, R90). -/
def Store.receiving (t : Store) (n : Nat) : Store := { t with
  counter := if n = 9999 then 1 else n + 1, slotLine := some n, unstoredMark := false
  directory := t.directory ++ [{
    number := n, kind := .received, state := .opened, holder := some .line, damaged := false, truncated := false,
    printOwed := false, punchOwed := false, openedAt := t.clock, closedAt := none, worstP := 0, overCount := 0,
    mutilatedCount := 0, remote := [], expected := [], destination := [], delivery := .none, attempts := 0,
    readers := 0, chain := [] }] }

theorem Store.createMsg_receiving {t : Store} {n : Nat} (next : t.nextFree = n) (small : n ≤ 9999) :
    ({ t.createMsg .received .line with unstoredMark := false } : Store) = t.receiving n := by
  rw [Store.createMsg, next, nextNumber_last small]
  rfl

/-- The first symbol of a received message opens it (R90). -/
theorem storeReceive_opens {s : State} {n k : Nat} (sound : s.store.Sound) (slot : s.store.slotLine = none)
    (room : s.store.directory.length < 48) (number : n = nextNumber^[k] s.store.counter)
    (carried : ∀ j, j < k → ∃ q ∈ s.store.directory, q.number = nextNumber^[j] s.store.counter)
    (fresh : ∀ q ∈ s.store.directory, q.number ≠ n) (y : Symbol) (p : Nat) (exceeds : Bool) :
    (s.store.receiving n).Sound
      ∧ storeReceive y p exceeds s = receiveInto n y p exceeds (post (.messageOpened n) (s.setStore (s.store.receiving n))) := by
  obtain ⟨next, small⟩ := Store.nextFree_unique sound.counter room number carried fresh
  rw [← Store.createMsg_receiving next small]
  refine ⟨{ Store.createMsg_sound sound room .received .line with }, ?_⟩
  rw [storeReceive, slot]
  dsimp only
  rw [if_pos (by exact room), next]

theorem storeReceive_joins {s : State} {n : Nat} (slot : s.store.slotLine = some n) (y : Symbol) (p : Nat) (exceeds : Bool) :
    storeReceive y p exceeds s = receiveInto n y p exceeds s := by rw [storeReceive, slot]

theorem storeReceive_unstored {s : State} (slot : s.store.slotLine = none) (full : 48 ≤ s.store.directory.length) (y : Symbol) (p : Nat)
    (exceeds : Bool) : storeReceive y p exceeds s =
      let u := s.setStore { s.store with unstored := min 65535 (s.store.unstored + 1), unstoredMark := true }
      if s.store.unstoredMark then u else post (.storeFull 0 .directory) u := by
  rw [storeReceive, slot]
  exact if_neg (Nat.not_lt.mpr full)

/-! ## The symbol's text (R88) -/

/-- What R67 and R91 write into a record reaches none of its text. -/
theorem Store.textOf_marked {t u : Store} {n : Nat} {f : Record → Record} (number : ∀ q, (f q).number = q.number)
    (chain : ∀ q, (f q).chain = q.chain) (directory : u.directory = t.directory.map fun q => if q.number = n then f q else q)
    (memory : u.memory = t.memory) (m : Nat) : u.textOf m = t.textOf m := by
  have reads : u.blockText = t.blockText := by
    funext b
    rw [Store.blockText, Store.blockText, Store.blockBytes, Store.blockBytes, memory]
  have found : u.find m = (t.find m).map fun q => if q.number = n then f q else q := by
    rw [Store.find, Store.find, directory, List.find?_map]
    congr 2
    funext q
    rw [Function.comp_apply]
    split_ifs
    · rw [number]
    · rfl
  rw [Store.textOf, Store.textOf, found, reads]
  cases t.find m with
  | none => rfl
  | some q =>
    have same : (if q.number = n then f q else q).chain = q.chain := by
      split_ifs
      · exact chain q
      · rfl
    exact congrArg (List.flatMap t.blockText) same

theorem openLast_exists {chain : List ChainBlock} : openLast chain ≠ none ↔ ∃ b, chain.getLast? = some b ∧ b.damaged = false ∧ b.fill < 32 := by
  constructor
  · intro some
    obtain ⟨b, last⟩ := Option.ne_none_iff_exists'.mp some
    obtain ⟨before, split, whole, room⟩ := openLast_some last
    exact ⟨b, by rw [split, List.getLast?_concat], whole, room⟩
  · rintro ⟨b, last, whole, room⟩
    rw [openLast, last]
    dsimp only
    rw [if_pos ⟨whole, room⟩]
    exact Option.some_ne_none b

/-! ## The delivery to the message (R67, R90, R91, R172, R173) -/

/-- What a delivered symbol makes of its message's record but for the text (R67, R91). -/
def Record.delivered (print punch : Bool) (p : Nat) (exceeds mutilated : Bool) (m : Record) : Record :=
  (m.owing print punch).sampled p exceeds mutilated

/-- The symbol joins its message. -/
theorem delivered_joins {s : State} (idle : s.NoChannel) {n : Nat} {r : Record} (sound : s.store.Sound) (found : s.store.find n = some r)
    (slot : s.store.slotLine = some n) (kind : r.kind = .received) (clean : s.store.Clean r) {y : Symbol}
    (room : (∃ b, r.chain.getLast? = some b ∧ b.damaged = false ∧ b.fill < 32) ∨ s.store.free ≠ [])
    (auto : s.AtLimit y r → s.calls.auto = none) (p : Nat) (exceeds print punch : Bool) :
    ∃ u chain taken, taken ≤ 1 ∧ s.store.Joins n r [y.toByte] u chain taken
      ∧ restartIdle (markOwed print punch (receiveInto n y p exceeds s)) = if s.AtLimit y r
        then (s.setStore (u.update n (Record.delivered print punch p exceeds y.mutilated))).mutilationCleared n
        else restartIdle (s.setStore (u.update n (Record.delivered print punch p exceeds y.mutilated))) := by
  have allowed (some_free : s.store.free ≠ []) : s.store.blockAllowed r.kind = true ∧ s.store.free ≠ [] := by
    rw [kind]
    exact ⟨decide_eq_true (List.length_pos_iff.mpr some_free), some_free⟩
  obtain ⟨u, chain, taken, one, appends, joins⟩ := appendSymbol_fits idle sound found clean (room.imp openLast_exists.mpr allowed) y
  have named : (s.setStore u).store.slotLine = some n := by
    rw [State.setStore_store, joins.same]
    exact slot
  have joined := receiveInto_joins appends (r := { r with chain := chain }) (joins.found found) named (by exact auto) p exceeds
  refine ⟨u, chain, taken, one, joins, ?_⟩
  rw [joined]
  exact delivered_into named (s.AtLimit y r) p exceeds y.mutilated print punch

/-- Its message has no room for the symbol. -/
theorem delivered_lost {s : State} {n : Nat} {r : Record} (found : s.store.find n = some r) (slot : s.store.slotLine = some n) {y : Symbol}
    (full : ¬ ((∃ b, r.chain.getLast? = some b ∧ b.damaged = false ∧ b.fill < 32) ∨ s.store.free ≠ []))
    (auto : s.AtLimit y r → s.calls.auto = none) (p : Nat) (exceeds print punch : Bool) {w : State}
    (told : w = if r.truncated then s else post (.storeFull n .blocks) s) {t : Store}
    (cut : t = s.store.update n fun m => { m.delivered print punch p exceeds y.mutilated with truncated := true }) :
    restartIdle (markOwed print punch (receiveInto n y p exceeds s)) = if s.AtLimit y r
      then (w.setStore t).mutilationCleared n else restartIdle (w.setStore t) := by
  have unfit : openLast r.chain = none := by
    by_contra some_open
    exact full (.inl (openLast_exists.mp some_open))
  have empty : s.store.free = [] := by
    by_contra some_free
    exact full (.inr some_free)
  have same : w.store = s.store := by
    rw [told]
    split_ifs <;> rfl
  have named : (s.truncates n r).store.slotLine = some n := by
    rw [State.truncates, ← told, updateMsg, same]
    exact slot
  have writes : updateMsg n (fun m => (m.owing print punch).sampled p exceeds y.mutilated) (s.truncates n r) = w.setStore t := by
    rw [State.truncates, ← told, updateMsg_updateMsg (f := fun m => { m with truncated := true }) (fun _ => rfl), updateMsg, same, cut]
    rfl
  rw [receiveInto_loses (appendSymbol_fails found unfit (.inr empty) y) found slot auto p exceeds,
    delivered_into named (s.AtLimit y r) p exceeds y.mutilated print punch, writes]

/-! ## A collection begins by trigger (R78, R175, R176) -/

theorem collectionStart_other {s : State} (other : ¬ (s.calls.snapshot = some .unattended ∧ s.calls.state = .incoming
    ∧ s.calls.phase = some .traffic ∧ s.calls.status = .captured ∧ s.calls.coll = none)) : collectionStart s = s :=
  if_neg fun h => other ⟨((unattended_iff s).mp h.1).1, h.2⟩

/-- A collection begins with the messages that the caller may collect, in the directory's order. -/
theorem collectionStart_begins {s : State} (may : s.calls.snapshot = some .unattended ∧ s.calls.state = .incoming
    ∧ s.calls.phase = some .traffic ∧ s.calls.status = .captured ∧ s.calls.coll = none)
    {list : List Nat} (listed : (s.store.directory.filter fun r => r.CollectedBy s.calls.captured).map (·.number) = list) :
    collectionStart s = if list = [] then post (.collectionDone 0 0) s
      else collTurns list (s.setCalls { s.calls with coll := some ⟨list, none, 0, 0⟩, phase := some .collection }) := by
  have collects : collectable s.calls.captured = fun r => r.CollectedBy s.calls.captured := funext fun r => collectable_eq _ r
  rw [collectionStart, if_pos ⟨(unattended_iff s).mpr ⟨may.1, .inl may.2.1⟩, may.2⟩, collects, listed]
  cases list <;> rfl

/-! ## The capture and the recogniser together (R61; log entry 15) -/

/-- With nothing to trigger, the capture's part of a symbol comes to the same before and after the recogniser's. -/
theorem handOff_capturing {s : State} {y : Symbol} (capturing : s.calls.capturing = true)
    (quiet : ¬ y.Eligible ∨ matching s.dist.triggers (joinHistory s.dist.history y) = []) {f : State → State}
    (sees : ∀ u, u.calls = s.calls → captureSee y u = f u) (keeps : ∀ u, (f u).dist = u.dist)
    (apart : ∀ u d, f (u.setDist d) = (f u).setDist d) : handOff y s =
      f ((if y.Eligible then s.setDist { s.dist with history := joinHistory s.dist.history y } else s).setFree (s.freeCount + 1)) := by
  have takes_up (u : State) (same : u.dist = s.dist) : recognise y u =
      if y.Eligible then u.setDist { s.dist with history := joinHistory s.dist.history y } else u := by
    rw [← same]
    exact recognise_quiet (same ▸ quiet)
  rw [handOff, if_pos capturing]
  dsimp only
  rw [sees (drawFree s) rfl, takes_up (f (drawFree s)) (keeps _), takes_up (drawFree s) rfl]
  by_cases eligible : y.Eligible
  · rw [if_pos eligible, if_pos eligible, if_pos eligible, sees _ (by rfl), apart]
    exact (ite_self _).trans (apart (drawFree s) _).symm
  · rw [if_neg eligible, if_neg eligible, if_neg eligible, sees (drawFree s) rfl]
    exact ite_self _

/-- A capture takes its next symbol. -/
theorem captureSee_next {s : State} {y : Symbol} (capturing : s.calls.capturing = true) (takes : ¬ s.Skips y)
    (few : s.calls.captured.length < 19) : captureSee y s = s.setCalls { s.calls with
      captured := s.calls.captured ++ [y], captureStartT := false, captureGapT := true } := by
  rw [captureSee_takes capturing takes, if_neg]
  rw [List.length_append]
  exact Nat.not_le.mpr (Nat.succ_lt_succ few)

/-- A capture takes its twentieth symbol, and ends. -/
theorem captureSee_last {s : State} {y : Symbol} (capturing : s.calls.capturing = true) (takes : ¬ s.Skips y)
    (last : s.calls.captured.length = 19) (auto : s.calls.auto = none) (phase : s.calls.phase ≠ some .capture) :
    captureSee y s = post (.capture .captured 20 ((s.calls.captured ++ [y]).take 4)) (s.setCalls { s.calls with
      captured := s.calls.captured ++ [y], capturing := false, captureStartT := false, captureGapT := false, status := .captured }) := by
  have full : (s.calls.captured ++ [y]).length = 20 := by rw [List.length_append, last]; rfl
  rw [captureSee_takes capturing takes, if_pos full.ge, captureEnd_unowned (by exact auto), captureStop_plain (.inl (by exact phase)),
    captureOver_captured (List.concat_ne_nil y s.calls.captured) (by exact phase)]
  dsimp only [State.setCalls_calls]
  rw [full]
  rfl

end Sys2Proof.Machine
end

section
-- One proof is elaborated at a time: the threads of many at once do not fit the memory a check allows.
set_option Elab.async false

/-! SUPPORT. The proof that a stop sample delivers as R24 to R26, R30 to R32, R65 to R67, R76 to R78, R90 to R92, R163, R170 and R172 give
it, from the rules of the parts before. -/

namespace Sys2Proof.Machine

/-- Settles O26. -/
theorem stopSampleDelivers : Obligations.StopSampleDelivers := by
  intro s y rx assembling five classed mark p above toPrinter toPunch toStore lostPrint lostPunch count owing graded changed flagged
    calling late
  obtain ⟨left, at_left⟩ : ∃ left, left = s.line.stopped mark rx := ⟨_, rfl⟩
  obtain ⟨came, at_came⟩ : ∃ came, came = s.arrived left y := ⟨_, rfl⟩
  obtain ⟨base, at_base⟩ : ∃ base, base = restartIdle came := ⟨_, rfl⟩
  obtain ⟨stored, at_stored⟩ : ∃ stored, stored = restartIdle (markOwed lostPrint lostPunch
    (if toStore then storeReceive y p above came else came)) := ⟨_, rfl⟩
  have line_eq : left = { s.line with
        rx := if mark then .hunting else .spacingHold, rxCase := rx, breakDeclared := s.line.breakDeclared && mark
        lastP := p, peakP := max s.line.peakP p, received := count true s.line.received, overCount := count above s.line.overCount
        framingCount := count (!mark) s.line.framingCount, distReported := s.line.distReported || above
        maxDisp := left.maxDisp, units := left.units } := by
    rw [at_left]
    exact s.line.stopped_eq mark rx
  have came_facts : came.store = s.store ∧ came.calls = s.calls ∧ came.ch0 = s.ch0 ∧ came.ch1 = s.ch1 := by
    rw [at_came]
    exact ⟨rfl, rfl, rfl, rfl⟩
  obtain ⟨at_store, at_calls, at_ch0, at_ch1⟩ := came_facts
  have base_eq : base = came.setCalls { s.calls with idleT := if calling s then some s.calls.idle else s.calls.idleT } := by
    rw [at_base, restartIdle_eq, at_calls]
    rfl
  have delivers : stored = receiveDeliver y p above (stopReports s.line s.pins.lineMark (s.setLine left)) := by
    rw [at_stored, at_came]
    exact (receiveDeliver_eq s left y p above).symm
  have stored_facts : stored.dist = s.dist ∧ stored.freeCount = s.freeCount ∧ stored.ident = s.ident ∧ stored.line.rx = left.rx := by
    have moves : Moves (stopReports s.line s.pins.lineMark (s.setLine left)) stored := delivers ▸ Moves.ofReceiveDeliver y p above _
    have parts : stored.dist = stored.still.dist ∧ stored.freeCount = stored.still.freeCount ∧ stored.ident = stored.still.ident
        ∧ stored.line.rx = stored.still.line.rx := ⟨rfl, rfl, rfl, rfl⟩
    rw [moves.still, stopReports_eq] at parts
    exact parts
  obtain ⟨dist_eq, free_eq, ident_eq, rx_eq⟩ := stored_facts
  obtain ⟨seen, at_seen⟩ : ∃ seen, seen = handOff y stored := ⟨_, rfl⟩
  obtain ⟨final, at_final⟩ : ∃ final, final = receivedWru y seen := ⟨_, rfl⟩
  have seen_same : seen.ident = s.ident ∧ seen.line.rx = left.rx := by
    obtain ⟨rx_kept, ident_kept⟩ := handOff_receiver y stored
    rw [at_seen]
    exact ⟨ident_kept.trans ident_eq, rx_kept.trans rx_eq⟩
  have ran : exec .stopSample s = .next (kick (if mark = false ∧ final.line.rx = .spacingHold ∧ breakAtStop s.line = true
      then declareBreak final else final)) := by
    have run : exec .stopSample s = execStopSample s := rfl
    rw [run, execStopSample, if_pos ⟨assembling, five⟩]
    dsimp only
    rw [classed, at_final, at_seen, delivers, at_left]
    rfl
  refine ⟨left, s.distorted, base, stored, seen, final, line_eq, rfl, ?_, ?_, ?_, ?_, ?_, ?_, ?_, ?_⟩
  · rw [base_eq, at_came]
    rfl
  · intro none
    rw [at_stored, if_neg (by rw [none]; exact Bool.false_ne_true)]
    cases slot : s.store.slotLine with
    | none => rw [markOwed, at_store, slot, at_base]
    | some n =>
      rw [markOwed_slot (at_store ▸ slot), updateMsg, restartIdle_setStore, at_store, ← at_base]
      rfl
  · intro some slot full
    have unowed (u : State) (closed : u.store.slotLine = none) : markOwed lostPrint lostPunch u = u := by rw [markOwed, closed]
    rw [at_stored, if_pos some, storeReceive_unstored (at_store ▸ slot) (at_store ▸ full), at_store]
    dsimp only
    split_ifs
    · rw [unowed _ (by exact slot), restartIdle_setStore, ← at_base]
    · rw [unowed _ (by exact slot), restartIdle_post, restartIdle_setStore, ← at_base]
  · intro n r opened begun some sound ch0 ch1 began found kind clean atLimit auto clearing got limited room
    obtain ⟨v, store, channels, calls, begins, stands, slot, free, rewritten, receives⟩ : ∃ v : State, v.store = opened ∧ v.NoChannel
        ∧ v.calls = s.calls ∧ (∀ t, restartIdle (v.setStore t) = begun.setStore t) ∧ opened.Sound ∧ opened.slotLine = Option.some n
        ∧ opened.free = s.store.free ∧ (∀ u w, opened.Rewritten u w → s.store.Rewritten u w)
        ∧ storeReceive y p above came = receiveInto n y p above v := by
      rcases began with ⟨slot, rfl, rfl⟩ | ⟨closed, few, rfl, ⟨k, number, carried⟩, fresh, rfl⟩
      · exact ⟨came, at_store, ⟨at_ch0.trans ch0, at_ch1.trans ch1⟩, at_calls, fun t => by rw [restartIdle_setStore, ← at_base], sound,
          slot, rfl, fun _ _ h => h, storeReceive_joins (at_store ▸ slot) y p above⟩
      · obtain ⟨opens, receives⟩ := storeReceive_opens (s := came) (at_store ▸ sound) (at_store ▸ closed) (at_store ▸ few)
          (at_store ▸ number) (at_store ▸ carried) (at_store ▸ fresh) y p above
        rw [at_store] at opens receives
        exact ⟨post (.messageOpened n) (came.setStore (s.store.receiving n)), rfl, ⟨at_ch0.trans ch0, at_ch1.trans ch1⟩, at_calls, fun t => by
          rw [restartIdle_setStore, restartIdle_post, restartIdle_setStore, ← at_base]; rfl, opens, rfl, rfl, fun _ _ h => h, receives⟩
    have limits (w b : State) (t : Store) (calls : w.calls = s.calls) (runs : restartIdle (w.setStore t) = b.setStore t) :
        (if atLimit then (w.setStore t).mutilationCleared n else restartIdle (w.setStore t)) = limited (b.setStore t) := by
      rw [← runs, restartIdle_eq]
      by_cases limit : atLimit
      · rw [if_pos limit]
        refine Eq.trans ?_ (if_pos limit).symm
        rw [State.mutilationCleared, State.mutilationStopped, State.setStore_calls, calls]
        by_cases capturing : s.calls.capturing = true
        · exact (if_pos capturing).trans ((congrArg (updateMsg n s.calls.identifies) (if_pos capturing)).trans (if_pos capturing).symm)
        · exact (if_neg capturing).trans ((if_neg capturing).trans (if_neg capturing).symm)
      · rw [if_neg limit]
        exact (if_neg limit).symm
    have limit_eq : v.AtLimit y r ↔ atLimit := by
      rw [State.AtLimit, calls]
      exact Iff.rfl
    subst store
    refine ⟨fun fits => ?_, fun full => ?_⟩
    · obtain ⟨u, chain, taken, one, joins, runs⟩ := delivered_joins channels stands found slot kind clean (free ▸ fits)
        (by rw [limit_eq, calls]; exact auto) p above lostPrint lostPunch
      have marked := Store.textOf_marked (t := u) (n := n) (f := Record.delivered lostPrint lostPunch p above y.mutilated)
        (u := u.update n (Record.delivered lostPrint lostPunch p above y.mutilated)) (fun _ => rfl) (fun _ => rfl) rfl rfl
      refine ⟨u.update n (Record.delivered lostPrint lostPunch p above y.mutilated), chain, taken, ?_, (marked n).trans joins.text,
        fun m other => (marked m).trans (joins.others m other), ?_, joins.free.trans (congrArg _ free),
        joins.blocks.trans (congrArg _ (congrArg _ free)), one, ?_,
        congrArg (fun t : Store => t.update n (Record.delivered lostPrint lostPunch p above y.mutilated)) joins.same⟩
      · rw [at_stored, if_pos some, receives, runs, ← limits v begun _ calls (begins _)]
        exact if_congr limit_eq rfl rfl
      · rw [Store.update, joins.directory]
        exact map_changed_twice v.store.directory n (f := fun q => { q with chain := chain }) fun _ => rfl
      · rw [← free]
        exact rewritten _ _ joins.rewritten
    · obtain ⟨w, at_w⟩ : ∃ w, w = if r.truncated then v else post (.storeFull n .blocks) v := ⟨_, rfl⟩
      have facts : w.calls = s.calls ∧ ∀ t, restartIdle (w.setStore t)
          = (if r.truncated then begun else post (.storeFull n .blocks) begun).setStore t := by
        rw [at_w]
        split_ifs
        · exact ⟨calls, begins⟩
        · exact ⟨calls, fun t => (restartIdle_post (.storeFull n .blocks) (v.setStore t)).trans (congrArg (post _) (begins t))⟩
      obtain ⟨w_calls, w_begins⟩ := facts
      have runs := delivered_lost found slot (free ▸ full) (by rw [limit_eq, calls]; exact auto) p above lostPrint lostPunch at_w
        (t := { v.store with directory := changed v.store.directory n (fun m => { graded m with truncated := true }) }) rfl
      rw [at_stored, if_pos some, receives, runs, ← limits w _ _ w_calls (w_begins _)]
      exact if_congr limit_eq rfl rfl
  · intro eligible h found joined emptied
    have history_eq : joinHistory stored.dist.history y = h := by
      rw [joinHistory, dist_eq, List.length_append]
      rfl
    have found_eq : matching stored.dist.triggers (joinHistory stored.dist.history y) = found := by
      rw [history_eq, dist_eq]
      exact matching_eq s.dist.triggers h
    have alone (still : stored.calls.capturing = false) : seen = recognise y stored := by
      rw [at_seen, handOff, if_neg (by rw [still]; exact Bool.false_ne_true)]
    have single {n : Nat} {a : TriggerAction} {u : State} (some : eligible) (one : found = [(n, a)])
        (acts : triggerAct a joined = u.setDist { s.dist with history := h }) :
        recognise y stored = post (.trigger n) (u.setDist { s.dist with history := [] }) := by
      have acts' : triggerAct a (stored.setDist { stored.dist with history := joinHistory stored.dist.history y })
          = u.setDist { stored.dist with history := joinHistory stored.dist.history y } := by
        rw [history_eq, dist_eq]
        exact acts
      rw [recognise_single some (found_eq.trans one) acts', dist_eq]
    refine ⟨fun still unfit => ?_, fun still some none => ?_, fun still some any gates => ?_, fun n still some one => ⟨fun closed => ?_,
      fun m r slot at_m holder ch0 ch1 => ?_⟩, fun n still some one => ⟨fun at_rest => ?_, fun in_call auto => ?_⟩, fun n still some one => ?_,
      fun capturing quiet kept => ?_⟩
    · rw [alone still, recognise_quiet (.inl unfit), if_neg unfit]
    · rw [alone still, recognise_quiet (.inr (found_eq.trans none)), if_pos some, history_eq, dist_eq]
    · rw [alone still, recognise_found some found_eq any, triggerActs_gates _ _ gates, postAll_setDist, history_eq, dist_eq]
      rfl
    · rw [alone still]
      exact single (u := stored) some one (by rw [triggerAct, closeLine, show joined.store.slotLine = Option.none from closed])
    · rw [alone still]
      refine single (u := post (.messageClosed m .closed) (stored.setStore { stored.store with
        slotLine := Option.none
        directory := changed stored.store.directory m (fun q => { q with
          state := .closed, closedAt := Option.some stored.store.clock, holder := Option.none }) })) some one ?_
      rw [triggerAct, closeLine, show joined.store.slotLine = Option.some m from slot]
      exact closeMessage_eq (s := joined) ch0 ch1 at_m holder .closed
    · rw [alone still]
      exact single (u := stored) some one (if_neg (by rcases at_rest with h | h <;> simp [joined, h]))
    · rw [alone still]
      exact single (u := post (.clearRequested .trigger) { stored with calls := { stored.calls with
        state := .clearing, clearGuardT := true, settleT := Option.none, idleT := Option.none } }) some one
        (clearRequest_quiet (s := joined) in_call auto still .trigger)
    · intro caller d mine
      refine ⟨fun other => ?_, fun may nobody => ?_, fun before after r b bs may split earlier own distinct chain fill whole clean ch0 => ?_⟩
      · rw [alone still]
        exact single (u := stored) some one (collectionStart_other (s := joined) other)
      · rw [alone still]
        refine single (u := post (.collectionDone 0 0) stored) some one ((collectionStart_begins (s := joined) may (list := []) ?_).trans rfl)
        rw [List.map_eq_nil_iff]
        exact List.filter_eq_nil_iff.mpr fun r inside yes => Bool.false_ne_true ((nobody r inside).symm.trans yes)
      · rw [alone still]
        have list : (joined.store.directory.filter mine).map (·.number) = r.number :: (after.filter mine).map (·.number) := by
          rw [show joined.store.directory = before ++ r :: after from split, List.filter_append, List.filter_cons_of_pos own,
            List.filter_eq_nil_iff.mpr fun q inside => by rw [earlier q inside]; exact Bool.false_ne_true]
          rfl
        have first : stored.store.find r.number = Option.some r :=
          Store.find_own distinct (show r ∈ d by rw [split]; exact List.mem_append_right _ List.mem_cons_self)
        refine single (u := ({ stored with
          calls := { stored.calls with
            phase := Option.some .collection
            coll := Option.some ⟨(after.filter mine).map (·.number), Option.some (r.number, .ch0), 0, 0⟩ }
          store := { stored.store with directory := changed d r.number (fun q => { q with delivery := .sending }) }
            } : State).sends .ch0 r.number b) some one ((collectionStart_begins (s := joined) may list).trans ?_)
        rw [if_neg (List.cons_ne_nil _ _), collTurns_next (r := r) (b := b) (bs := bs) (by rfl) (by exact may.2.1 ▸ (fun h => CallState.noConfusion h)) (by exact first)
          (by exact own) (by exact ch0) chain fill whole (by exact clean)]
        rfl
    · intro skip drawn
      have records : stored.calls.captured = s.calls.captured ∧ stored.calls.auto = s.calls.auto ∧ stored.calls.phase = s.calls.phase
          ∧ stored.calls.capturing = s.calls.capturing := by
        rw [kept, base_eq]
        exact ⟨rfl, rfl, rfl, rfl⟩
      obtain ⟨captured, auto_eq, phase_eq, capturing_eq⟩ := records
      have at_drawn : (if eligible then stored.setDist { stored.dist with history := joinHistory stored.dist.history y } else stored).setFree
          (stored.freeCount + 1) = drawn := by rw [history_eq, dist_eq, free_eq]
      have skips (u : State) (calls : u.calls = stored.calls) : u.Skips y ↔ skip := by rw [State.Skips, calls, captured]
      have draws (f : State → State) (sees : ∀ u, u.calls = stored.calls → captureSee y u = f u) (keeps : ∀ u, (f u).dist = u.dist)
          (apart : ∀ u d, f (u.setDist d) = (f u).setDist d) : seen = f drawn := by
        rw [at_seen, handOff_capturing (capturing_eq.trans capturing) (quiet.imp_right found_eq.trans) sees keeps apart, at_drawn]
      refine ⟨fun passed => ?_, fun taken few => ?_, fun taken last auto phase => ?_⟩
      · exact draws id (fun u calls => captureSee_skips ((skips u calls).mpr passed)) (fun _ => rfl) fun _ _ => rfl
      · refine draws (fun u => u.setCalls _) (fun u calls => ?_) (fun _ => rfl) fun _ _ => rfl
        rw [captureSee_next (by rw [calls, capturing_eq, capturing]) (mt (skips u calls).mp taken) (by rw [calls, captured]; exact few), calls,
          captured, kept]
      · refine draws (fun u => post _ (u.setCalls _)) (fun u calls => ?_) (fun _ => rfl) fun _ _ => rfl
        rw [captureSee_last (by rw [calls, capturing_eq, capturing]) (mt (skips u calls).mp taken) (by rw [calls, captured]; exact last)
          (by rw [calls, auto_eq]; exact auto) (by rw [calls, phase_eq]; exact phase), calls, captured, kept]
  · intro asked
    have asks : (y.kind = .wru ∧ (unattended seen = true ∨ seen.ident.wruResponse = true)) ↔ asked := by
      rw [seen_same.1, unattended_iff, or_comm]
    have heard (h : asked) : final = answerBack seen := at_final.trans (if_pos (asks.mpr h))
    refine ⟨fun unasked => at_final.trans (if_neg (mt asks.mp unasked)), fun h busy => ?_, fun h ab latch => ?_,
      fun h ab latch auto => ?_⟩
    · exact (heard h).trans (answerBack_absorbed busy)
    · exact (heard h).trans (answerBack_pending ab (seen_same.1 ▸ latch))
    · exact (heard h).trans (answerBack_empty ab (seen_same.1 ▸ latch) auto)
  · intro prompt
    refine leaves_of_kicked ran (if_neg fun due => prompt ⟨due.1, ?_⟩)
    exact of_decide_eq_true due.2.2
  · intro slow unheeded
    have spacing : final.line.rx = .spacingHold := by
      rw [at_final, (Moves.ofReceivedWru y seen).receiver.1, seen_same.2, at_left, LineUnit.stopped_eq]
      exact if_neg (by rw [slow.1]; exact Bool.false_ne_true)
    refine leaves_of_kicked ran ((if_pos ⟨slow.1, spacing, decide_eq_true slow.2⟩).trans (declareBreak_unheeded unheeded))

end Sys2Proof.Machine
end
